-- ==== Sys2Proof/Word.lean ====
section
/-!
DEFINITION. The word of the Wik-8 CORE (00_scope.md R8) and the byte of its program file (20_memory.md R61).
-/

namespace Sys2Proof

/-- A word: the one unit of register, program and memory storage, 32 bits (00_scope.md R7, R8). -/
abbrev Word := BitVec 32

/-- A byte of a program file. Inside the CORE there are no bytes (20_memory.md R61). -/
abbrev Byte := BitVec 8

end Sys2Proof
end

