-- ==== Sys2Proof/Syntax.lean ====
section
/-!
DEFINITION. The seven registers (10_state.md R21) and the 32 instructions (30_encoding.md R86). Operands are whole words: an
immediate (R83), a register code that only the execute phase resolves (R84), an absolute target (R85).
-/

namespace Sys2Proof

/-- The seven registers, in the order of their codes (10_state.md R21, R30). -/
inductive Reg where
  /-- program counter (R22) -/
  | pcc
  /-- accumulator (R23) -/
  | acc
  /-- backup accumulator (R24) -/
  | bak
  /-- stack pointer (R25) -/
  | stk
  /-- last-written-value register (R26) -/
  | lst
  /-- comparison flag (R27) -/
  | fl0
  /-- link register (R28) -/
  | fl1
deriving DecidableEq, Repr

/-- One constructor per row of the opcode table, in its order (30_encoding.md R86); operands in word order (R81). -/
inductive Instr where
  | nop
  | zro (rc : Word)
  | ldi (imm rc : Word)
  | mov (rs rd : Word)
  | addi (imm : Word)
  | subi (imm : Word)
  | addr (rc : Word)
  | subr (rc : Word)
  | swp
  | sav
  | jmp (tgt : Word)
  | jez (tgt : Word)
  | jnz (tgt : Word)
  | jgz (tgt : Word)
  | jlz (tgt : Word)
  | ceqi (imm : Word)
  | cnei (imm : Word)
  | cgti (imm : Word)
  | clti (imm : Word)
  | ceqr (rc : Word)
  | cner (rc : Word)
  | cgtr (rc : Word)
  | cltr (rc : Word)
  | sta
  | str (rc : Word)
  | lds (rc : Word)
  | inc
  | dec
  | psh
  | cal (tgt : Word)
  | ret
  | hlt
deriving DecidableEq, Repr

end Sys2Proof
end

