-- ==== Sys2Proof/Decode.lean ====
section
/-!
DEFINITION. The decoder, total on any list of words and rejecting by name, and after it the encoder (30_encoding.md R80 to R90).
-/

namespace Sys2Proof

/-- Why a list of words is no instruction. -/
inductive DecodeError where
  /-- there is no opcode word at all (40_cycle.md R101) -/
  | noOpcode
  /-- the opcode word is not in the opcode map (30_encoding.md R88) -/
  | illegalOpcode (op : Word)
  /-- the words end after `fetched` words of the instruction (30_encoding.md R90) -/
  | truncated (fetched : Nat)
deriving DecidableEq, Repr

/-- A row of the opcode map: its format (30_encoding.md R81), with the instruction it makes of its operand words. -/
inductive OpcodeRow where
  /-- format N: no operand -/
  | bare (i : Instr)
  /-- format I: an immediate -/
  | imm (make : Word → Instr)
  /-- format R: a register code -/
  | reg (make : Word → Instr)
  /-- format T: a target -/
  | target (make : Word → Instr)
  /-- format IR: an immediate, then a register code -/
  | immReg (make : Word → Word → Instr)
  /-- format RR: a source code, then a destination code -/
  | regReg (make : Word → Word → Instr)

/-- The opcode map, on the number of the WHOLE opcode word (30_encoding.md R82, R86); every other word is illegal (R88). -/
def opcodeRow (op : Nat) : Option OpcodeRow :=
  match op with
  | 0x00 => some (.bare .nop)
  | 0x01 => some (.reg .zro)
  | 0x02 => some (.immReg .ldi)
  | 0x03 => some (.regReg .mov)
  | 0x04 => some (.imm .addi)
  | 0x05 => some (.imm .subi)
  | 0x06 => some (.reg .addr)
  | 0x07 => some (.reg .subr)
  | 0x08 => some (.bare .swp)
  | 0x09 => some (.bare .sav)
  | 0x0A => some (.target .jmp)
  | 0x0B => some (.target .jez)
  | 0x0C => some (.target .jnz)
  | 0x0D => some (.target .jgz)
  | 0x0E => some (.target .jlz)
  | 0x0F => some (.imm .ceqi)
  | 0x10 => some (.imm .cnei)
  | 0x11 => some (.imm .cgti)
  | 0x12 => some (.imm .clti)
  | 0x13 => some (.reg .ceqr)
  | 0x14 => some (.reg .cner)
  | 0x15 => some (.reg .cgtr)
  | 0x16 => some (.reg .cltr)
  | 0x17 => some (.bare .sta)
  | 0x18 => some (.reg .str)
  | 0x19 => some (.reg .lds)
  | 0x1A => some (.bare .inc)
  | 0x1B => some (.bare .dec)
  | 0x1C => some (.bare .psh)
  | 0x1D => some (.target .cal)
  | 0x1E => some (.bare .ret)
  | 0x1F => some (.bare .hlt)
  | _ => none

/-- How many operand words the format has (30_encoding.md R87). -/
def operandCount : OpcodeRow → Nat
  | .bare _ => 0
  | .imm _ => 1
  | .reg _ => 1
  | .target _ => 1
  | .immReg _ => 2
  | .regReg _ => 2

/-- An instruction of one operand word from the words after its opcode. -/
def takeOne (make : Word → Instr) : List Word → Except DecodeError (Instr × List Word)
  | w :: rest => .ok (make w, rest)
  | [] => .error (.truncated 1)

/-- An instruction of two operand words from the words after its opcode. -/
def takeTwo (make : Word → Word → Instr) : List Word → Except DecodeError (Instr × List Word)
  | w₁ :: w₂ :: rest => .ok (make w₁ w₂, rest)
  | [_] => .error (.truncated 2)
  | [] => .error (.truncated 1)

/-- Operand assembly: each operand is one whole word, unchanged (30_encoding.md R81, R83 to R85). -/
def takeOperands : OpcodeRow → List Word → Except DecodeError (Instr × List Word)
  | .bare i, ws => .ok (i, ws)
  | .imm make, ws => takeOne make ws
  | .reg make, ws => takeOne make ws
  | .target make, ws => takeOne make ws
  | .immReg make, ws => takeTwo make ws
  | .regReg make, ws => takeTwo make ws

/-- The instruction at the head of a list of words, and the words after it (30_encoding.md R80, R87). -/
def decode : List Word → Except DecodeError (Instr × List Word)
  | [] => .error .noOpcode
  | op :: ws =>
    match opcodeRow op.toNat with
    | none => .error (.illegalOpcode op)
    | some row => takeOperands row ws

/-- The words of an instruction (30_encoding.md R81, R86). -/
def encode : Instr → List Word
  | .nop => [0x00]
  | .zro rc => [0x01, rc]
  | .ldi imm rc => [0x02, imm, rc]
  | .mov rs rd => [0x03, rs, rd]
  | .addi imm => [0x04, imm]
  | .subi imm => [0x05, imm]
  | .addr rc => [0x06, rc]
  | .subr rc => [0x07, rc]
  | .swp => [0x08]
  | .sav => [0x09]
  | .jmp tgt => [0x0A, tgt]
  | .jez tgt => [0x0B, tgt]
  | .jnz tgt => [0x0C, tgt]
  | .jgz tgt => [0x0D, tgt]
  | .jlz tgt => [0x0E, tgt]
  | .ceqi imm => [0x0F, imm]
  | .cnei imm => [0x10, imm]
  | .cgti imm => [0x11, imm]
  | .clti imm => [0x12, imm]
  | .ceqr rc => [0x13, rc]
  | .cner rc => [0x14, rc]
  | .cgtr rc => [0x15, rc]
  | .cltr rc => [0x16, rc]
  | .sta => [0x17]
  | .str rc => [0x18, rc]
  | .lds rc => [0x19, rc]
  | .inc => [0x1A]
  | .dec => [0x1B]
  | .psh => [0x1C]
  | .cal tgt => [0x1D, tgt]
  | .ret => [0x1E]
  | .hlt => [0x1F]

/-- The number of words of an instruction (30_encoding.md R80). -/
def instrWords (i : Instr) : Nat := (encode i).length

/-- The three words an opcode-table number stands for: word k holds the bits from 32 k on, and every bit from `nbits` on is
0. The longest instruction has three words (30_encoding.md R80). -/
def tableWords (nbits w : Nat) : List Word :=
  let v := w % 2 ^ nbits
  [BitVec.ofNat 32 v, BitVec.ofNat 32 (v / 2 ^ 32), BitVec.ofNat 32 (v / 2 ^ 64)]

/-- The instruction the decoder reads from an opcode-table number of `nbits` bits. -/
def decodeTableWord (nbits w : Nat) : Option Instr :=
  match decode (tableWords nbits w) with
  | .ok (i, _) => some i
  | .error _ => none

/-- The word of 4 consecutive file bytes, the first the most significant (20_memory.md R61). -/
def wordOfBytes (b0 b1 b2 b3 : Byte) : Word :=
  BitVec.ofNat 32 (b0.toNat * 2 ^ 24 + b1.toNat * 2 ^ 16 + b2.toNat * 2 ^ 8 + b3.toNat)

/-- The words of a program file, or none where its length is no multiple of 4 (20_memory.md R61, 60_exceptions.md R246). -/
def programOfBytes : List Byte → Option (List Word)
  | [] => some []
  | b0 :: b1 :: b2 :: b3 :: rest => (programOfBytes rest).map fun ws => wordOfBytes b0 b1 b2 b3 :: ws
  | _ => none

end Sys2Proof
end

