-- ==== Sys2Proof/Config.lean ====
section
/-!
DEFINITION. What an implementation fixes: the region table REGIONS, MEM_SIZE and PROG_CAP (00_scope.md R7, 20_memory.md R51,
R53), which State carries as plain data (notes/assumptions/3.md), and the host's answers INPUT (R56), a free value.
-/

namespace Sys2Proof

/-- The name of a region. `program` and `input` are the two the rules single out (20_memory.md R56, R60); the others name
the scratch regions of the reference layout and whatever further regions a table has (DESIGN CHOICE, notes/assumptions/8.md); which of
them is a scratch region its permission bits say (DESIGN CHOICE, notes/assumptions/21.md). -/
inductive RegionName where
  | program
  | input
  | stack
  | ram
  | other (id : Nat)
deriving DecidableEq, Repr

/-- A region descriptor (00_scope.md R7, 20_memory.md R51). -/
structure Region where
  name : RegionName
  base : Nat
  length : Nat
  readable : Bool
  writable : Bool
deriving DecidableEq, Repr

/-- The construction parameters REGIONS, MEM_SIZE and PROG_CAP (00_scope.md R7). -/
structure Layout where
  regions : List Region
  memSize : Nat
  progCap : Nat
deriving DecidableEq, Repr

/-- The reference layout (20_memory.md R53). -/
def Layout.reference : Layout where
  regions :=
    [ { name := .program, base := 0x0000, length := 1024, readable := true, writable := false },
      { name := .input,   base := 0x0400, length := 256,  readable := true, writable := false },
      { name := .stack,   base := 0x0500, length := 256,  readable := true, writable := true },
      { name := .ram,     base := 0x0600, length := 2560, readable := true, writable := true } ]
  memSize := 4096
  progCap := 1024

/-- INPUT(addr, t): the word the host answers to a read of address `addr` of the input-only region in step `t`
(20_memory.md R56, 40_cycle.md R110). FREE VALUE: it has no body, so every proof holds for every host
(93_implementation_defined.md section 2; notes/assumptions/5.md). -/
opaque Config.input (addr t : Nat) : Word

end Sys2Proof
end

