-- ==== Sys2Proof/Machine/State.lean ====
section
/-!
DEFINITION. The state of the Wik-8 CORE (10_state.md R20), the outcomes of a step (60_exceptions.md R221), the reasons a
transaction stops, and the state after reset (70_reset_and_hazards.md R260).
-/

namespace Sys2Proof.Machine

/-- A word of the Word Store at its word address. The spec's memory has words and no bytes (20_memory.md R50, R61), so the
cell is a word, where Host.Cell has a byte (DEDUCED, notes/assumptions/1.md). -/
abbrev Cell := Nat × Word

/-- The Word Store: the words that differ from what an unlisted address reads as, in one canonical form (Machine/Memory.lean). -/
abbrev Memory := List Cell

/-- What STEP returns: the code on the outcome port (60_exceptions.md R221). -/
inductive StepOutcome where
  /-- code 0 -/
  | success
  /-- code 1: a register code the permission table does not allow -/
  | invalidRegisterReference
  /-- code 2: an access at `stk` outside every region or against the region's permission -/
  | invalidStackAddress
  /-- code 3: RET with a link register outside the program -/
  | failure
  /-- code 4: an illegal opcode word or a truncated instruction -/
  | decodeFault
deriving DecidableEq, Repr

/-- Reasons a transaction makes no machine. No STEP answers one: the spec's faults are outcomes of a step that leave a state it
describes (60_exceptions.md R222), so they are next states (notes/assumptions/2.md). -/
inductive Fault where
  /-- ProgramTooLarge, raised by CREATE alone (`create` in HostPort.lean) when L > PROG_CAP (60_exceptions.md R241). Safe: no
  machine exists, as the spec says. -/
  | programTooLarge
deriving DecidableEq, Repr

/-- Reasons a transaction has no meaning. -/
inductive Refusal where
  /-- An instruction with no meaning yet; raised by no arm of this model. Safe. -/
  | notModelled (mnemonic : String)
  /-- READ_MEM of an address no region covers (`readMem` in HostPort.lean): the spec says a model refuses it
  (60_exceptions.md R243). Safe: nothing is claimed of it. -/
  | readMemOutOfBounds
  /-- CREATE with a region table that 20_memory.md R51 and R54 or 45_stack.md R184 exclude (`create` in HostPort.lean). Safe: nothing is claimed of
  such a machine (notes/assumptions/14.md). -/
  | illFormedLayout
deriving DecidableEq, Repr

/-- The Machine (10_state.md R20), with its construction parameters, the step index and the outcome port. -/
structure State where
  /-- program counter (10_state.md R22) -/
  pcc : Word
  /-- accumulator (R23) -/
  acc : Word
  /-- backup accumulator (R24) -/
  bak : Word
  /-- stack pointer (R25) -/
  stk : Word
  /-- last-written-value register (R26) -/
  lst : Word
  /-- comparison flag (R27) -/
  fl0 : Word
  /-- link register (R28) -/
  fl1 : Word
  /-- the next step executes an instruction (R29) -/
  running : Bool
  /-- the program ended normally (R29) -/
  finished : Bool
  /-- the Word Store (20_memory.md R50) -/
  mem : Memory
  /-- the program P, fixed at construction (10_state.md R41) -/
  program : List Word
  /-- REGIONS, MEM_SIZE and PROG_CAP, fixed at construction (20_memory.md R51) -/
  layout : Layout
  /-- the index t of the next step that finds running true (40_cycle.md R110) -/
  stepIndex : Nat
  /-- what the latest STEP returned (60_exceptions.md R240); model's own field (notes/assumptions/2.md) -/
  outcome : StepOutcome
deriving DecidableEq, Repr

/-- What a step answers. -/
abbrev Result := Host.Outcome State Fault Refusal

/-- The Machine that CREATE makes of a layout and a program that fits it (70_reset_and_hazards.md R260, 10_state.md R40): no
listed word, so that every address reads as constructed (20_memory.md R60). The outcome port before the first STEP is a DESIGN
CHOICE (notes/assumptions/2.md). -/
def State.constructed (layout : Layout) (program : List Word) : State where
  pcc := 0
  acc := 0
  bak := 0
  stk := 0
  lst := 0
  fl0 := 0
  fl1 := 0
  running := true
  finished := false
  mem := []
  program := program
  layout := layout
  stepIndex := 0
  outcome := .success

/-- The machine right after reset: CREATE with the reference layout and the program of no words. A program comes from outside
the machine (notes/assumptions/6.md). -/
def State.reset : State := State.constructed Layout.reference []

end Sys2Proof.Machine
end

