-- ==== Sys2Proof/Machine/Registers.lean ====
section
/-!
DEFINITION. Register codes and their constant permission table (10_state.md R30, R31, R34).
-/

namespace Sys2Proof.Machine

/-- The register a code names; codes above 6 name none (10_state.md R30). -/
def regOfCode (c : Word) : Option Reg :=
  match c.toNat with
  | 0 => some .pcc
  | 1 => some .acc
  | 2 => some .bak
  | 3 => some .stk
  | 4 => some .lst
  | 5 => some .fl0
  | 6 => some .fl1
  | _ => none

/-- READ_OK: every register may be read through its code (10_state.md R31, R35). -/
def readOk : Reg → Bool
  | .pcc => true
  | .acc => true
  | .bak => true
  | .stk => true
  | .lst => true
  | .fl0 => true
  | .fl1 => true

/-- WRITE_OK: every register but `lst` may be written through its code (10_state.md R31, R35). -/
def writeOk : Reg → Bool
  | .pcc => true
  | .acc => true
  | .bak => true
  | .stk => true
  | .lst => false
  | .fl0 => true
  | .fl1 => true

/-- The register a code lets be read, if any: what CheckRead of 40_cycle.md R108 finds. -/
def readableReg (c : Word) : Option Reg :=
  (regOfCode c).filter readOk

/-- The register a code lets be written, if any: what CheckWrite of 40_cycle.md R108 finds. -/
def writableReg (c : Word) : Option Reg :=
  (regOfCode c).filter writeOk

end Sys2Proof.Machine
end

