-- ==== Sys2Proof/WellFormed.lean ====
section
/-!
DEFINITION. What must hold of a machine's construction parameters (20_memory.md R51, R54, 45_stack.md R184,
70_reset_and_hazards.md R262), and
which register codes an instruction needs. An instruction has no ill-formed term: every operand word is legal at decode
(30_encoding.md R89), and the register codes are checked when it executes (R84); `Instr.codesPermitted` is that check.
-/

namespace Sys2Proof

/-- The region covers the address (20_memory.md R52). -/
def Region.covers (r : Region) (a : Nat) : Bool :=
  decide (r.base ≤ a) && decide (a < r.base + r.length)

/-- No address is in both regions (20_memory.md R51). A region of length 0 covers no address, so it is apart from every other;
whether a table may have one the spec leaves open, and the model admits it (DESIGN CHOICE, notes/assumptions/18.md). -/
def Region.apart (r q : Region) : Bool :=
  decide (r.base + r.length ≤ q.base) || decide (q.base + q.length ≤ r.base) || decide (r.length = 0)
    || decide (q.length = 0)

/-- No two descriptors overlap (20_memory.md R51). -/
def Layout.disjoint (l : Layout) : Bool :=
  decide (l.regions.Pairwise fun r q => r.apart q = true)

/-- Every covered address is below MEM_SIZE (20_memory.md R51). A region of length 0 covers none, so wherever its base is it meets
this (DESIGN CHOICE that it is admitted, notes/assumptions/18.md). -/
def Layout.within (l : Layout) : Bool :=
  l.regions.all fun r => decide (r.length = 0) || decide (r.base + r.length ≤ l.memSize)

/-- A name names one region (DEDUCED: "the" program region and "the" input-only region, notes/assumptions/8.md). -/
def Layout.named (l : Layout) : Bool :=
  decide ((l.regions.map Region.name).Nodup)

/-- There is an input-only region, readable and not writable (20_memory.md R54). One of length 0 counts (DESIGN CHOICE,
notes/assumptions/18.md). -/
def Layout.inputOk (l : Layout) : Bool :=
  (l.regions.any fun r => decide (r.name = .input))
    && (l.regions.all fun r => decide (r.name ≠ .input) || (r.readable && !r.writable))

/-- There is a general scratch region, readable and writable (20_memory.md R54). One of length 0 counts, although no word of it can
be working memory (DESIGN CHOICE, notes/assumptions/18.md). One is enough: a further region named stack, ram or other may lack a
permission bit, and is then no scratch region (DESIGN CHOICE, notes/assumptions/21.md). -/
def Layout.scratchOk (l : Layout) : Bool :=
  l.regions.any fun r => decide (r.name ≠ .input) && decide (r.name ≠ .program) && r.readable && r.writable

/-- PROG_CAP is below 2^32 (40_cycle.md R111), and it is the program region's length (00_scope.md R7, 92_eei_decisions.md D21). It is
a parameter of its own only in a layout that has no program region, which is legal (20_memory.md R54, notes/assumptions/8.md). -/
def Layout.capOk (l : Layout) : Bool :=
  decide (l.progCap < 2 ^ 32) && (l.regions.all fun r => decide (r.name ≠ .program) || decide (l.progCap = r.length))

/-- No region covers the address 0xFFFFFFFF: it is out of bounds for every access (45_stack.md R184), and an address is out of bounds
when no region covers it (20_memory.md R52). DEDUCED that a table is held to it, notes/assumptions/20.md. -/
def Layout.lastFree (l : Layout) : Bool :=
  l.regions.all fun r => !r.covers 0xFFFFFFFF

/-- A region table the spec admits (20_memory.md R51, R54, 45_stack.md R184). What the program region's permission bits
may be is left open, and the model checks neither (DESIGN CHOICE, notes/assumptions/19.md). -/
def Layout.wf (l : Layout) : Bool :=
  l.disjoint && l.within && l.named && l.inputOk && l.scratchOk && l.capOk && l.lastFree

/-- The program fits: L <= PROG_CAP (70_reset_and_hazards.md R262). -/
def Layout.fits (l : Layout) (program : List Word) : Bool :=
  decide (program.length ≤ l.progCap)

/-- The register codes an instruction reads through (CheckRead in its rule). -/
def Instr.codesRead : Instr → List Word
  | .zro rc => [rc]
  | .mov rs _ => [rs]
  | .addr rc => [rc]
  | .subr rc => [rc]
  | .ceqr rc => [rc]
  | .cner rc => [rc]
  | .cgtr rc => [rc]
  | .cltr rc => [rc]
  | .str rc => [rc]
  | .nop | .ldi _ _ | .addi _ | .subi _ | .swp | .sav | .jmp _ | .jez _ | .jnz _ | .jgz _ | .jlz _ | .ceqi _ | .cnei _
  | .cgti _ | .clti _ | .sta | .lds _ | .inc | .dec | .psh | .cal _ | .ret | .hlt => []

/-- The register codes an instruction writes through (CheckWrite in its rule). -/
def Instr.codesWritten : Instr → List Word
  | .zro rc => [rc]
  | .ldi _ rc => [rc]
  | .mov _ rd => [rd]
  | .lds rc => [rc]
  | .nop | .addi _ | .subi _ | .addr _ | .subr _ | .swp | .sav | .jmp _ | .jez _ | .jnz _ | .jgz _ | .jlz _ | .ceqi _
  | .cnei _ | .cgti _ | .clti _ | .ceqr _ | .cner _ | .cgtr _ | .cltr _ | .sta | .str _ | .inc | .dec | .psh | .cal _
  | .ret | .hlt => []

/-- The permission table lets every register code of the instruction be used as the instruction uses it (10_state.md R31).
The table is constant (R34), so this is a fact about the instruction alone. -/
def Instr.codesPermitted (i : Instr) : Bool :=
  (i.codesRead.all fun c => (Machine.readableReg c).isSome) && (i.codesWritten.all fun c => (Machine.writableReg c).isSome)

end Sys2Proof
end

