-- ==== Sys2Proof/Machine/Memory.lean ====
section
/-!
DEFINITION. The Word Store: what it holds at construction, its canonical form, one word read and written, the region of an
address (20_memory.md R50 to R60).
-/

namespace Sys2Proof.Machine

/-- The region the layout names so, if it has one. -/
def regionNamed (l : Layout) (n : RegionName) : Option Region :=
  l.regions.find? fun r => decide (r.name = n)

/-- The region of an address (20_memory.md R52); in a table whose regions are disjoint the first that covers it is the only one. -/
def regionOf (l : Layout) (a : Nat) : Option Region :=
  l.regions.find? fun r => r.covers a

/-- What an unlisted address reads as: the word of the Word Store at construction, P's copy at the program region's base and 0
elsewhere (20_memory.md R60; notes/assumptions/7.md). -/
def constructedWord (l : Layout) (program : List Word) (a : Nat) : Word :=
  match regionNamed l .program with
  | none => 0
  | some r => if r.base ≤ a then (program[a - r.base]?).getD 0 else 0

/-- The word a memory holds at an address; `unlisted` says what an address it does not list reads as. -/
def Memory.read (unlisted : Nat → Word) (a : Nat) : Memory → Word
  | [] => unlisted a
  | (b, w) :: m => if b = a then w else Memory.read unlisted a m

/-- The memory with an address no longer listed. -/
def Memory.erase (a : Nat) (m : Memory) : Memory :=
  m.filter fun c => decide (c.1 ≠ a)

/-- The memory with a cell put before the first higher address. -/
def Memory.insert (a : Nat) (v : Word) : Memory → Memory
  | [] => [(a, v)]
  | (b, w) :: m => if a < b then (a, v) :: (b, w) :: m else (b, w) :: Memory.insert a v m

/-- The memory after a write of one word: the value an unlisted address reads as is not listed. -/
def Memory.write (unlisted : Nat → Word) (a : Nat) (v : Word) (m : Memory) : Memory :=
  if v = unlisted a then Memory.erase a m else Memory.insert a v (Memory.erase a m)

/-- The canonical form: addresses strictly rising, no cell equal to what an unlisted address reads as. -/
abbrev Memory.wf (unlisted : Nat → Word) (m : Memory) : Prop :=
  m.Pairwise (fun c d => c.1 < d.1) ∧ ∀ c ∈ m, c.2 ≠ unlisted c.1

/-- What an unlisted address of the state's Word Store reads as. -/
def State.unlisted (s : State) : Nat → Word :=
  constructedWord s.layout s.program

/-- M[a] (20_memory.md R50). -/
def State.word (s : State) (a : Nat) : Word :=
  Memory.read s.unlisted a s.mem

/-- M[a] <- v, and nothing else (20_memory.md R57). -/
def State.storeWord (s : State) (a : Nat) (v : Word) : State :=
  { s with mem := Memory.write s.unlisted a v s.mem }

/-- The region of an address in the state's layout (20_memory.md R52). -/
def State.region (s : State) (a : Nat) : Option Region :=
  regionOf s.layout a

end Sys2Proof.Machine
end

