-- ==== Sys2Proof/Machine/Ops.lean ====
section
/-!
DEFINITION. The operations every meaning is made of: reading and writing a register, ending a step with an outcome, the two
memory accesses (20_memory.md R56, R57), and what a step does around the execute phase (40_cycle.md R100 to R112).
-/

namespace Sys2Proof.Machine

/-- The word a register holds (10_state.md R21). -/
def State.get (s : State) : Reg → Word
  | .pcc => s.pcc
  | .acc => s.acc
  | .bak => s.bak
  | .stk => s.stk
  | .lst => s.lst
  | .fl0 => s.fl0
  | .fl1 => s.fl1

/-- One register set to a word, with no side effect (a write by name, 00_scope.md R9). -/
def State.set (s : State) (r : Reg) (v : Word) : State :=
  match r with
  | .pcc => { s with pcc := v }
  | .acc => { s with acc := v }
  | .bak => { s with bak := v }
  | .stk => { s with stk := v }
  | .lst => { s with lst := v }
  | .fl0 => { s with fl0 := v }
  | .fl1 => { s with fl1 := v }

/-- `x[c] <- v` on the register `c` names: the register, and then `lst`, hold `v` (10_state.md R32, R33). -/
def State.writeThrough (s : State) (r : Reg) (v : Word) : State :=
  { s.set r v with lst := v }

/-- The result of an add or subtract: into `acc`, and into `lst` (10_state.md R33, 42_accumulator.md R130 to R133). -/
def State.accumulate (s : State) (v : Word) : State :=
  { s with acc := v, lst := v }

/-- The next fetch is at `tgt` (43_jumps.md R150). -/
def State.jump (s : State) (tgt : Word) : State :=
  { s with pcc := tgt }

/-- The execute phase completes: outcome Success (40_cycle.md R105). -/
def State.succeeded (s : State) : State :=
  { s with outcome := .success }

/-- A fault stops the machine: `running` becomes false, the outcome is reported, nothing else changes; `finished` keeps its value,
false on every running machine the CORE reaches (60_exceptions.md R222, R228; notes/assumptions/2.md). -/
def State.stopped (s : State) (o : StepOutcome) : State :=
  { s with running := false, outcome := o }

/-- The execute phase ends with Success. -/
def complete (s : State) : Result :=
  .next s.succeeded

/-- `stop <Outcome>`: a fault ends the step (00_scope.md R9). TAKING A FAULT is this one operation for every fault. -/
def stop (o : StepOutcome) (s : State) : Result :=
  .next (s.stopped o)

/-- MemRead(a): stops, or goes on with the word (20_memory.md R56). The input-only region answers with the host's INPUT of this
step. -/
def memRead (a : Word) (s : State) (go : Word → Result) : Result :=
  match s.region a.toNat with
  | none => stop .invalidStackAddress s
  | some r =>
    if r.readable then
      if r.name = .input then go (Config.input a.toNat s.stepIndex) else go (s.word a.toNat)
    else stop .invalidStackAddress s

/-- MemWrite(a, v): stops with nothing written, or goes on with the word stored (20_memory.md R57, R58). -/
def memWrite (a v : Word) (s : State) (go : State → Result) : Result :=
  match s.region a.toNat with
  | none => stop .invalidStackAddress s
  | some r => if r.writable then go (s.storeWord a.toNat v) else stop .invalidStackAddress s

/-- The rest of the program from `pcc` on: what the fetches of this step can read (40_cycle.md R102). -/
def State.window (s : State) : List Word :=
  s.program.drop s.pcc.toNat

/-- `n` words fetched: `pcc` advances by `n` modulo 2^32 (40_cycle.md R102, R106). -/
def State.advance (s : State) (n : Nat) : State :=
  { s with pcc := s.pcc + BitVec.ofNat 32 n }

/-- The step index counts a step that found `running` true (40_cycle.md R110). -/
def State.tick (s : State) : State :=
  { s with stepIndex := s.stepIndex + 1 }

/-- Normal termination (40_cycle.md R101). -/
def State.ended (s : State) : State :=
  { s with running := false, finished := true, outcome := .success }

/-- HLT's effect on the status (46_call_halt.md R202). -/
def State.halt (s : State) : State :=
  { s with running := false, finished := true }

/-- A step on a halted machine: nothing changes, Success is returned (40_cycle.md R112). -/
def State.idle (s : State) : State :=
  { s with outcome := .success }

/-- A result with the step counted. -/
def ticked : Result → Result
  | .next t => .next t.tick
  | .fault f => .fault f
  | .refused r => .refused r

/-- What the fetches of a step find: the end of the program (40_cycle.md R101), a decode fault after `n` words (R103, R104), or an
instruction. -/
inductive Fetched where
  | ended
  | bad (n : Nat)
  | instr (i : Instr)
deriving DecidableEq, Repr

/-- Fetch and decode at `pcc` (40_cycle.md R101 to R104). Nothing is left to fetch exactly when u(pcc) >= L, the end of the program
(R101). The fetches do not reach 2^32, so that reading on in a list is `Fetch()` word by word (R111, notes/assumptions/10.md). -/
def fetch (s : State) : Fetched :=
  match decode s.window with
  | .ok (i, _) => .instr i
  | .error .noOpcode => .ended
  | .error (.illegalOpcode _) => .bad 1
  | .error (.truncated n) => .bad n

end Sys2Proof.Machine
end

