-- ==== Sys2Proof/Machine/Operands.lean ====
section
/-!
DEFINITION. The operand forms. An immediate and a target are the operand word as it stands (30_encoding.md R83, R85), so they need
no operation; a register code is resolved, and its permission checked, when the instruction executes (R84).
-/

namespace Sys2Proof.Machine

/-- CheckRead(c): stops, or goes on with the register (40_cycle.md R108, 10_state.md R31). -/
def checkRead (c : Word) (s : State) (go : Reg → Result) : Result :=
  match readableReg c with
  | none => stop .invalidRegisterReference s
  | some r => go r

/-- CheckWrite(c): stops, or goes on with the register (40_cycle.md R108, 10_state.md R31). -/
def checkWrite (c : Word) (s : State) (go : Reg → Result) : Result :=
  match writableReg c with
  | none => stop .invalidRegisterReference s
  | some r => go r

end Sys2Proof.Machine
end

