-- ==== Sys2Proof/Machine/Accumulator.lean ====
section
/-!
DEFINITION. Accumulator arithmetic, swap and copy (42_accumulator.md R130 to R136). BitVec addition and subtraction are the spec's
`+w` and `-w`, modulo 2^32 (R136).
-/

namespace Sys2Proof.Machine

/-- ADDI imm (R130). -/
def execAddi (imm : Word) (s : State) : Result :=
  complete (s.accumulate (s.acc + imm))

/-- SUBI imm (R131). -/
def execSubi (imm : Word) (s : State) : Result :=
  complete (s.accumulate (s.acc - imm))

/-- ADDR rc (R132). -/
def execAddr (rc : Word) (s : State) : Result :=
  checkRead rc s fun r => complete (s.accumulate (s.acc + s.get r))

/-- SUBR rc (R133). -/
def execSubr (rc : Word) (s : State) : Result :=
  checkRead rc s fun r => complete (s.accumulate (s.acc - s.get r))

/-- SWP: no write of `lst` (R134). -/
def execSwp (s : State) : Result :=
  complete { s with acc := s.bak, bak := s.acc }

/-- SAV: no write of `lst` (R135). -/
def execSav (s : State) : Result :=
  complete { s with bak := s.acc }

end Sys2Proof.Machine
end

