-- ==== Sys2Proof/Machine/CallHalt.lean ====
section
/-!
DEFINITION. Call, return and halt (46_call_halt.md R200 to R204).
-/

namespace Sys2Proof.Machine

/-- CAL tgt: `pcc` already holds the address after the CAL (R200, 40_cycle.md R106). -/
def execCal (tgt : Word) (s : State) : Result :=
  complete ({ s with fl1 := s.pcc }.jump tgt)

/-- RET: the link register must be an index of the program (R201). -/
def execRet (s : State) : Result :=
  if s.fl1.toNat < s.program.length then complete (s.jump s.fl1) else stop .failure s

/-- HLT (R202). -/
def execHlt (s : State) : Result :=
  complete s.halt

end Sys2Proof.Machine
end

