-- ==== Sys2Proof/Machine/Flags.lean ====
section
/-!
DEFINITION. The one flag, `fl0`, and the predicates that compares and conditional jumps test (10_state.md R27, R36, 00_scope.md R8).
Arithmetic writes no flag (10_state.md R36).
-/

namespace Sys2Proof.Machine

/-- bool(b): the word 1 or 0 (00_scope.md R9). -/
def boolWord (b : Bool) : Word := if b then 1 else 0

/-- A compare's result (10_state.md R27). -/
def State.setFlag (s : State) (b : Bool) : State :=
  { s with fl0 := boolWord b }

/-- `==` on all 32 bits (00_scope.md R8). -/
def wordEq (a b : Word) : Bool := decide (a = b)

/-- `!=` on all 32 bits (00_scope.md R8). -/
def wordNe (a b : Word) : Bool := decide (a ≠ b)

/-- `>s`: two's-complement greater (00_scope.md R8). -/
def wordGt (a b : Word) : Bool := decide (b.toInt < a.toInt)

/-- `<s`: two's-complement less (00_scope.md R8). -/
def wordLt (a b : Word) : Bool := decide (a.toInt < b.toInt)

end Sys2Proof.Machine
end

