-- ==== Sys2Proof/Machine/Compare.lean ====
section
/-!
DEFINITION. Comparisons of `acc` into `fl0` (44_compare.md R160 to R169).
-/

namespace Sys2Proof.Machine

/-- CEQI imm (R160). -/
def execCeqi (imm : Word) (s : State) : Result :=
  complete (s.setFlag (wordEq s.acc imm))

/-- CNEI imm (R161). -/
def execCnei (imm : Word) (s : State) : Result :=
  complete (s.setFlag (wordNe s.acc imm))

/-- CGTI imm, signed (R162). -/
def execCgti (imm : Word) (s : State) : Result :=
  complete (s.setFlag (wordGt s.acc imm))

/-- CLTI imm, signed (R163). -/
def execClti (imm : Word) (s : State) : Result :=
  complete (s.setFlag (wordLt s.acc imm))

/-- CEQR rc: the register is read before the flag is written (R164). -/
def execCeqr (rc : Word) (s : State) : Result :=
  checkRead rc s fun r => complete (s.setFlag (wordEq s.acc (s.get r)))

/-- CNER rc (R165). -/
def execCner (rc : Word) (s : State) : Result :=
  checkRead rc s fun r => complete (s.setFlag (wordNe s.acc (s.get r)))

/-- CGTR rc, signed (R166). -/
def execCgtr (rc : Word) (s : State) : Result :=
  checkRead rc s fun r => complete (s.setFlag (wordGt s.acc (s.get r)))

/-- CLTR rc, signed (R167). -/
def execCltr (rc : Word) (s : State) : Result :=
  checkRead rc s fun r => complete (s.setFlag (wordLt s.acc (s.get r)))

end Sys2Proof.Machine
end

