-- ==== Sys2Proof/Machine/Data.lean ====
section
/-!
DEFINITION. No-op and register data movement (41_data_movement.md R120 to R123).
-/

namespace Sys2Proof.Machine

/-- NOP (R120). -/
def execNop (s : State) : Result :=
  complete s

/-- ZRO rc: needs both permissions, the read one checked first (R121). -/
def execZro (rc : Word) (s : State) : Result :=
  checkRead rc s fun _ => checkWrite rc s fun r => complete (s.writeThrough r 0)

/-- LDI imm, rc (R122). -/
def execLdi (imm rc : Word) (s : State) : Result :=
  checkWrite rc s fun r => complete (s.writeThrough r imm)

/-- MOV rs, rd: the source checked first (R123). -/
def execMov (rs rd : Word) (s : State) : Result :=
  checkRead rs s fun src => checkWrite rd s fun dst => complete (s.writeThrough dst (s.get src))

end Sys2Proof.Machine
end

