-- ==== Sys2Proof/Machine/Jump.lean ====
section
/-!
DEFINITION. Jumps (43_jumps.md R150 to R155). The target is not checked; the conditions test `acc`, not `fl0`.
-/

namespace Sys2Proof.Machine

/-- A jump taken when the condition holds; `pcc` otherwise stays at the next instruction (40_cycle.md R106). -/
def jumpIf (b : Bool) (tgt : Word) (s : State) : Result :=
  complete (if b then s.jump tgt else s)

/-- JMP tgt (R150). -/
def execJmp (tgt : Word) (s : State) : Result :=
  complete (s.jump tgt)

/-- JEZ tgt (R151). -/
def execJez (tgt : Word) (s : State) : Result :=
  jumpIf (wordEq s.acc 0) tgt s

/-- JNZ tgt (R152). -/
def execJnz (tgt : Word) (s : State) : Result :=
  jumpIf (wordNe s.acc 0) tgt s

/-- JGZ tgt, signed (R153). -/
def execJgz (tgt : Word) (s : State) : Result :=
  jumpIf (wordGt s.acc 0) tgt s

/-- JLZ tgt, signed (R154). -/
def execJlz (tgt : Word) (s : State) : Result :=
  jumpIf (wordLt s.acc 0) tgt s

end Sys2Proof.Machine
end

