-- ==== Sys2Proof/Machine/Stack.lean ====
section
/-!
DEFINITION. Loads and stores at the stack pointer, and moving it (45_stack.md R180 to R186).
-/

namespace Sys2Proof.Machine

/-- STA: `acc` is zeroed only after a successful write (R180). -/
def execSta (s : State) : Result :=
  memWrite s.stk s.acc s fun t => complete { t with acc := 0 }

/-- STR rc: the register check first; the source keeps its value (R181). -/
def execStr (rc : Word) (s : State) : Result :=
  checkRead rc s fun r => memWrite s.stk (s.get r) s fun t => complete t

/-- LDS rc: the register check first (R182). -/
def execLds (rc : Word) (s : State) : Result :=
  checkWrite rc s fun r => memRead s.stk s fun v => complete (s.writeThrough r v)

/-- INC: no bounds check (R183). -/
def execInc (s : State) : Result :=
  complete { s with stk := s.stk + 1 }

/-- DEC: no bounds check (R184). -/
def execDec (s : State) : Result :=
  complete { s with stk := s.stk - 1 }

/-- PSH: `acc` and `stk` change only after a successful write (R185). -/
def execPsh (s : State) : Result :=
  memWrite s.stk s.acc s fun t => complete { t with acc := 0, stk := t.stk + 1 }

end Sys2Proof.Machine
end

