-- ==== Sys2Proof/Machine/Dispatch.lean ====
section
/-!
DEFINITION. The execute phase of every instruction (40_cycle.md R105): one direct call of its meaning per constructor. `pcc` already
holds the address of the next instruction (R106).
-/

namespace Sys2Proof.Machine

def exec (i : Instr) (s : State) : Host.Outcome State Fault Refusal :=
  match i with
  | .nop => Sys2Proof.Machine.execNop s
  | .zro rc => Sys2Proof.Machine.execZro rc s
  | .ldi imm rc => Sys2Proof.Machine.execLdi imm rc s
  | .mov rs rd => Sys2Proof.Machine.execMov rs rd s
  | .addi imm => Sys2Proof.Machine.execAddi imm s
  | .subi imm => Sys2Proof.Machine.execSubi imm s
  | .addr rc => Sys2Proof.Machine.execAddr rc s
  | .subr rc => Sys2Proof.Machine.execSubr rc s
  | .swp => Sys2Proof.Machine.execSwp s
  | .sav => Sys2Proof.Machine.execSav s
  | .jmp tgt => Sys2Proof.Machine.execJmp tgt s
  | .jez tgt => Sys2Proof.Machine.execJez tgt s
  | .jnz tgt => Sys2Proof.Machine.execJnz tgt s
  | .jgz tgt => Sys2Proof.Machine.execJgz tgt s
  | .jlz tgt => Sys2Proof.Machine.execJlz tgt s
  | .ceqi imm => Sys2Proof.Machine.execCeqi imm s
  | .cnei imm => Sys2Proof.Machine.execCnei imm s
  | .cgti imm => Sys2Proof.Machine.execCgti imm s
  | .clti imm => Sys2Proof.Machine.execClti imm s
  | .ceqr rc => Sys2Proof.Machine.execCeqr rc s
  | .cner rc => Sys2Proof.Machine.execCner rc s
  | .cgtr rc => Sys2Proof.Machine.execCgtr rc s
  | .cltr rc => Sys2Proof.Machine.execCltr rc s
  | .sta => Sys2Proof.Machine.execSta s
  | .str rc => Sys2Proof.Machine.execStr rc s
  | .lds rc => Sys2Proof.Machine.execLds rc s
  | .inc => Sys2Proof.Machine.execInc s
  | .dec => Sys2Proof.Machine.execDec s
  | .psh => Sys2Proof.Machine.execPsh s
  | .cal tgt => Sys2Proof.Machine.execCal tgt s
  | .ret => Sys2Proof.Machine.execRet s
  | .hlt => Sys2Proof.Machine.execHlt s

end Sys2Proof.Machine
end

