-- ==== Sys2Proof/Machine/Step.lean ====
section
/-!
DEFINITION. One step (40_cycle.md R100), and a program word placed where the next step fetches.
-/

namespace Sys2Proof.Machine

/-- One step: a halted machine stays as it is; else the words at `pcc` are fetched and decoded, and the execute phase runs on the
state the fetches leave (40_cycle.md R100). The step is counted where it found `running` true (R110). -/
def step (s : State) : Host.Outcome State Fault Refusal :=
  if s.running then
    match fetch s with
    | .ended => ticked (.next s.ended)
    | .bad n => ticked (stop .decodeFault (s.advance n))
    | .instr i => ticked (exec i (s.advance (instrWords i)))
  else .next s.idle

/-- The state with the words of an opcode-table number loaded where the next step fetches: in the program at `pcc`, or at address 0
where they would not fit the program region, and the machine running. It stands for the load of a program from outside
(notes/assumptions/6.md). A cell that the new program makes equal to what its address reads as unlisted is dropped, so that the
memory stays canonical. -/
def State.withFetchWord (s : State) (nbits w : Nat) : State :=
  let at0 := if s.pcc.toNat + 3 ≤ s.layout.progCap then s.pcc.toNat else 0
  let program := (s.program ++ List.replicate at0 0).take at0 ++ tableWords nbits w ++ s.program.drop (at0 + 3)
  { s with
    pcc := BitVec.ofNat 32 at0
    program := program
    running := true
    finished := false
    mem := s.mem.filter fun c => decide (c.2 ≠ constructedWord s.layout program c.1) }

end Sys2Proof.Machine
end

