-- ==== Sys2Proof/Machine/HostPort.lean ====
section
/-!
DEFINITION. The host's transactions beside STEP: CREATE, IS_FINISHED, READ_REG, READ_MEM (60_exceptions.md R240 to R243), and the
codes of the outcome port (R221). None of the reads changes the state.
-/

namespace Sys2Proof.Machine

/-- CREATE (60_exceptions.md R241, 70_reset_and_hazards.md R260, R262). A region table the spec excludes is refused (DESIGN CHOICE,
notes/assumptions/14.md). -/
def create (layout : Layout) (program : List Word) : Result :=
  if layout.wf then
    if layout.fits program then .next (State.constructed layout program) else .fault .programTooLarge
  else .refused .illFormedLayout

/-- IS_FINISHED (R240). -/
def isFinished (s : State) : Bool := s.finished

/-- READ_REG of a register (R240, R243). -/
def readReg (r : Reg) (s : State) : Word := s.get r

/-- READ_REG of `running` (R240). -/
def readRunning (s : State) : Bool := s.running

/-- READ_MEM of one word (R243): M[a] whatever the region's `readable` bit; the host's own INPUT in the input-only region (asked for
the step to come, DESIGN CHOICE, notes/assumptions/11.md); refused outside every region. -/
def readMemWord (a : Nat) (s : State) : Except Refusal Word :=
  match s.region a with
  | none => .error .readMemOutOfBounds
  | some r => if r.name = .input then .ok (Config.input a s.stepIndex) else .ok (s.word a)

/-- READ_MEM of a window (R240, R243). -/
def readMem (base : Nat) : Nat → State → Except Refusal (List Word)
  | 0, _ => .ok []
  | n + 1, s =>
    match readMemWord base s with
    | .error r => .error r
    | .ok w => (readMem (base + 1) n s).map fun ws => w :: ws

/-- The code of an outcome on the outcome port (R221). -/
def outcomeCode : StepOutcome → Nat
  | .success => 0
  | .invalidRegisterReference => 1
  | .invalidStackAddress => 2
  | .failure => 3
  | .decodeFault => 4

end Sys2Proof.Machine
end

