-- ==== Sys2Proof/Safety.lean ====
section
/-!
DEFINITION. The terms claims are made in: what a step leaves unchanged, the invariant of the CORE's reachable states, and the
step of 40_cycle.md R100 written out word by word, to compare the model's step with.
-/

namespace Sys2Proof.Machine

/-- s(w): the word read as a two's-complement integer, by its definition (00_scope.md R8). -/
def signed (w : Word) : Int :=
  if w.toNat < 2 ^ 31 then (w.toNat : Int) else (w.toNat : Int) - 2 ^ 32

/-- The frame: from `s` to `t` every register but those listed, the status, every word of the Word Store but those at the listed
addresses, the construction parameters and the step index are unchanged. (The outcome port says what the step returned.) -/
structure Keeps (changed : List Reg) (stored : List Nat) (s t : State) : Prop where
  regs : ∀ r, r ∉ changed → t.get r = s.get r
  running : t.running = s.running
  finished : t.finished = s.finished
  words : ∀ a, a ∉ stored → t.word a = s.word a
  program : t.program = s.program
  layout : t.layout = s.layout
  stepIndex : t.stepIndex = s.stepIndex

/-- A load may read the address: some region covers it and is readable (20_memory.md R56). -/
def State.Loadable (s : State) (a : Nat) : Prop :=
  ∃ r, s.region a = some r ∧ r.readable = true

/-- A store may write the address: some region covers it and is writable (20_memory.md R57). -/
def State.Storable (s : State) (a : Nat) : Prop :=
  ∃ r, s.region a = some r ∧ r.writable = true

/-- The address is in the input-only region (20_memory.md R56). -/
def State.InInput (s : State) (a : Nat) : Prop :=
  ∃ r, s.region a = some r ∧ r.name = .input

/-- The state a fault leaves: `running` false, the outcome reported, all else as it was (60_exceptions.md R222). -/
def Stopped (o : StepOutcome) (s : State) : State :=
  { s with running := false, outcome := o }

/-- The "words" column of the opcode map: how many words the instruction of a legal opcode word has (30_encoding.md R86). -/
def opcodeWords (op : Nat) : Nat :=
  if op ∈ [0x00, 0x08, 0x09, 0x17, 0x1A, 0x1B, 0x1C, 0x1E, 0x1F] then 1 else if op ∈ [0x02, 0x03] then 3 else 2

/-- What holds of every machine the CORE reaches. -/
structure State.Inv (s : State) : Prop where
  /-- the region table is one the spec admits (20_memory.md R51, R54, 45_stack.md R184) -/
  layout : s.layout.wf = true
  /-- the program fits (70_reset_and_hazards.md R262) -/
  fits : s.program.length ≤ s.layout.progCap
  /-- the memory is in its canonical form -/
  canonical : Memory.wf s.unlisted s.mem
  /-- only words of writable regions differ from construction (20_memory.md R57, R65) -/
  confined : ∀ c ∈ s.mem, s.Storable c.1
  /-- (true, true) never occurs (10_state.md R29) -/
  status : ¬ (s.running = true ∧ s.finished = true)
  /-- a reported fault has halted the machine, not finished it (60_exceptions.md R222, R224) -/
  reported : s.outcome ≠ .success → s.running = false ∧ s.finished = false

/-- `Fetch()`: the program word at `pcc`, if `pcc` is an index, and `pcc` advanced by 1 (40_cycle.md R102). -/
def cycleFetch (s : State) : Option (Word × State) :=
  (s.program[s.pcc.toNat]?).map fun v => (v, { s with pcc := s.pcc + 1 })

/-- The operand loop: `n` more words, or none where the program ends first; the state is what the fetches left (40_cycle.md R104). -/
def cycleOperands : Nat → State → Option (List Word) × State
  | 0, s => (some [], s)
  | n + 1, s =>
    match cycleFetch s with
    | none => (none, s)
    | some (v, t) =>
      match cycleOperands n t with
      | (none, u) => (none, u)
      | (some ws, u) => (some (v :: ws), u)

/-- `step()` in the words of 40_cycle.md R100: one fetch per word, the opcode looked up before any operand is fetched. -/
def cycleStep (s : State) : Result :=
  if s.running = false then .next { s with outcome := .success }
  else
    match cycleFetch s with
    | none => .next { s with finished := true, running := false, outcome := .success, stepIndex := s.stepIndex + 1 }
    | some (op, t) =>
      match opcodeRow op.toNat with
      | none => .next { t with running := false, outcome := .decodeFault, stepIndex := s.stepIndex + 1 }
      | some row =>
        match cycleOperands (operandCount row) t with
        | (none, u) => .next { u with running := false, outcome := .decodeFault, stepIndex := s.stepIndex + 1 }
        | (some ws, u) =>
          match takeOperands row ws with
          | .ok (i, _) => ticked (exec i u)
          | .error _ => .next { u with running := false, outcome := .decodeFault, stepIndex := s.stepIndex + 1 }

end Sys2Proof.Machine
end

