-- ==== Sys2Proof/Certificates/Slice0/Obligations.lean ====
section
/-!
DEFINITION. The statements for the provers, from the numbered rules of spec/. In a statement about exec the state is the one the
fetches left, so `pcc` is the address of the next instruction (40_cycle.md R106).
-/

open Sys2Proof Sys2Proof.Machine

/-! ### Encoding -/

/-- 30_encoding.md R86: each opcode word, compared whole, is its instruction; R81: the operands follow in word order. The opcode
numbers are the spec's decision D3. -/
def Obligations.OpcodeMap : Prop :=
  ∀ (a b : Word) (rest : List Word),
    decode (0x00 :: rest) = .ok (.nop, rest) ∧ decode (0x01 :: a :: rest) = .ok (.zro a, rest) ∧
    decode (0x02 :: a :: b :: rest) = .ok (.ldi a b, rest) ∧ decode (0x03 :: a :: b :: rest) = .ok (.mov a b, rest) ∧
    decode (0x04 :: a :: rest) = .ok (.addi a, rest) ∧ decode (0x05 :: a :: rest) = .ok (.subi a, rest) ∧
    decode (0x06 :: a :: rest) = .ok (.addr a, rest) ∧ decode (0x07 :: a :: rest) = .ok (.subr a, rest) ∧
    decode (0x08 :: rest) = .ok (.swp, rest) ∧ decode (0x09 :: rest) = .ok (.sav, rest) ∧
    decode (0x0A :: a :: rest) = .ok (.jmp a, rest) ∧ decode (0x0B :: a :: rest) = .ok (.jez a, rest) ∧
    decode (0x0C :: a :: rest) = .ok (.jnz a, rest) ∧ decode (0x0D :: a :: rest) = .ok (.jgz a, rest) ∧
    decode (0x0E :: a :: rest) = .ok (.jlz a, rest) ∧ decode (0x0F :: a :: rest) = .ok (.ceqi a, rest) ∧
    decode (0x10 :: a :: rest) = .ok (.cnei a, rest) ∧ decode (0x11 :: a :: rest) = .ok (.cgti a, rest) ∧
    decode (0x12 :: a :: rest) = .ok (.clti a, rest) ∧ decode (0x13 :: a :: rest) = .ok (.ceqr a, rest) ∧
    decode (0x14 :: a :: rest) = .ok (.cner a, rest) ∧ decode (0x15 :: a :: rest) = .ok (.cgtr a, rest) ∧
    decode (0x16 :: a :: rest) = .ok (.cltr a, rest) ∧ decode (0x17 :: rest) = .ok (.sta, rest) ∧
    decode (0x18 :: a :: rest) = .ok (.str a, rest) ∧ decode (0x19 :: a :: rest) = .ok (.lds a, rest) ∧
    decode (0x1A :: rest) = .ok (.inc, rest) ∧ decode (0x1B :: rest) = .ok (.dec, rest) ∧
    decode (0x1C :: rest) = .ok (.psh, rest) ∧ decode (0x1D :: a :: rest) = .ok (.cal a, rest) ∧
    decode (0x1E :: rest) = .ok (.ret, rest) ∧ decode (0x1F :: rest) = .ok (.hlt, rest)

/-- Decoding and encoding agree in both directions: a list of words decodes to an instruction exactly when it begins with that
instruction's encoding, with every operand at every value. So no two encodings meet and no bit of one is dropped. -/
def Obligations.DecodeEncodeExactly : Prop :=
  ∀ (ws : List Word) (i : Instr) (rest : List Word), decode ws = .ok (i, rest) ↔ ws = encode i ++ rest

/-! ### The step -/

/-- 40_cycle.md R103: an opcode word outside the opcode map stops the step with DecodeFault after its one fetch. -/
def Obligations.IllegalOpcodeStops : Prop :=
  ∀ (s : State) (op : Word), s.running = true → s.program[s.pcc.toNat]? = some op → 0x20 ≤ op.toNat →
    step s = .next { s with pcc := s.pcc + 1, running := false, outcome := .decodeFault, stepIndex := s.stepIndex + 1 }

/-- 30_encoding.md R90 and 40_cycle.md R104: a legal opcode word whose operand words run past the end of the program stops the step
with DecodeFault, `pcc` past the words that were there. The spec's decision D12. -/
def Obligations.TruncatedInstructionStops : Prop :=
  ∀ (s : State) (op : Word), s.running = true → s.program[s.pcc.toNat]? = some op → op.toNat < 0x20 →
    s.program.length - s.pcc.toNat < opcodeWords op.toNat →
    step s = .next { s with pcc := s.pcc + BitVec.ofNat 32 (s.program.length - s.pcc.toNat), running := false,
                            outcome := .decodeFault, stepIndex := s.stepIndex + 1 }

/-- 40_cycle.md R101: a step that finds u(pcc) >= L ends the program normally and changes nothing else. -/
def Obligations.NormalTermination : Prop :=
  ∀ s : State, s.running = true → s.program.length ≤ s.pcc.toNat →
    step s = .next { s with running := false, finished := true, outcome := .success, stepIndex := s.stepIndex + 1 }

/-- 40_cycle.md R105, R106: where the words at `pcc` decode to an instruction, the step is the execute phase of that instruction on
the state with `pcc` moved past its words, and the step is counted (R110). -/
def Obligations.StepRunsInstruction : Prop :=
  ∀ (s : State) (i : Instr) (rest : List Word), s.running = true → decode (s.program.drop s.pcc.toNat) = .ok (i, rest) →
    ∃ t, exec i { s with pcc := s.pcc + BitVec.ofNat 32 (encode i).length } = .next t ∧
      step s = .next { t with stepIndex := t.stepIndex + 1 }

/-- 40_cycle.md R112: a step on a halted machine changes nothing and returns Success. The spec's decision D15. -/
def Obligations.HaltedStepIsNoOp : Prop :=
  ∀ s : State, s.running = false → step s = .next { s with outcome := .success }

/-- However many steps the host asks of a halted machine, nothing but the returned outcome differs (60_exceptions.md R223, a law the
spec derives). -/
def Obligations.HaltedForever : Prop :=
  ∀ (n : Nat) (s : State), s.running = false →
    ∃ t : State, Host.Core.run Sys2Proof.core n s = .next t ∧ t = { s with outcome := t.outcome }

/-- 40_cycle.md R100: the model's step is the spec's step, fetched word by word, for every program whose length a word can index. -/
def Obligations.StepIsTheCycle : Prop :=
  ∀ s : State, s.program.length < 2 ^ 32 → step s = cycleStep s

/-- No step and no execute phase faults or is refused in the host's sense: each ends with a state and an outcome. That a fault of the
spec (60_exceptions.md R221, R222) is a next state, and not a host fault, is the model's choice (DESIGN CHOICE, notes/assumptions/2.md
and 12.md). -/
def Obligations.EveryStepAnswers : Prop :=
  (∀ s : State, ∃ t, step s = .next t) ∧ ∀ (i : Instr) (s : State), ∃ t, exec i s = .next t

/-- 40_cycle.md R110: the step index counts exactly the steps that find `running` true. -/
def Obligations.StepIndexCounts : Prop :=
  ∀ s t : State, step s = .next t → t.stepIndex = s.stepIndex + if s.running = true then 1 else 0

/-! ### Registers -/

/-- 10_state.md R30: the register each code names. The numbers are the spec's decision D5. -/
def Obligations.RegisterCodes : Prop :=
  ∀ c : Word, regOfCode c =
    if c.toNat = 0 then some .pcc else if c.toNat = 1 then some .acc else if c.toNat = 2 then some .bak
    else if c.toNat = 3 then some .stk else if c.toNat = 4 then some .lst else if c.toNat = 5 then some .fl0
    else if c.toNat = 6 then some .fl1 else none

/-- 10_state.md R31: every register may be read through its code, every register but `lst` written; any other use of a code stops
the step with InvalidRegisterReference. -/
def Obligations.RegisterPermissions : Prop :=
  ∀ (c : Word) (s : State) (go : Reg → Result),
    (7 ≤ c.toNat → checkRead c s go = .next (Stopped .invalidRegisterReference s)) ∧
    (∀ r, regOfCode c = some r → checkRead c s go = go r) ∧
    (c.toNat = 4 ∨ 7 ≤ c.toNat → checkWrite c s go = .next (Stopped .invalidRegisterReference s)) ∧
    (∀ r, regOfCode c = some r → c.toNat ≠ 4 → checkWrite c s go = go r)

/-- 10_state.md R33: after a completed instruction `lst` holds the word written through a code, or the new `acc` of an add or
subtract, and is otherwise as it was; and a step that runs no instruction leaves it. -/
def Obligations.LastWrittenRule : Prop :=
  (∀ (i : Instr) (s t : State), exec i s = .next t → t.outcome = .success →
    match i with
    | .zro c | .ldi _ c | .mov _ c | .lds c => ∃ r, regOfCode c = some r ∧ r ≠ .lst ∧ t.lst = t.get r
    | .addi _ | .subi _ | .addr _ | .subr _ => t.lst = t.acc
    | _ => t.lst = s.lst) ∧
  ∀ s t : State, step s = .next t → (∀ i rest, decode (s.program.drop s.pcc.toNat) ≠ .ok (i, rest)) → t.lst = s.lst

/-- 10_state.md R36: only a compare or a write through code 5 changes `fl0`. -/
def Obligations.FlagWriters : Prop :=
  ∀ (i : Instr) (s t : State), exec i s = .next t → t.fl0 ≠ s.fl0 →
    (∃ c ∈ i.codesWritten, c.toNat = 5) ∨
    ∃ b, i = .ceqi b ∨ i = .cnei b ∨ i = .cgti b ∨ i = .clti b ∨ i = .ceqr b ∨ i = .cner b ∨ i = .cgtr b ∨ i = .cltr b

/-- 10_state.md R26, R36: `lst` and `fl0` are read through codes 4 and 5 alone. An instruction that reads neither code does the same
whatever they hold, but for what they hold afterwards. -/
def Obligations.AuditAndFlagReadByCodeOnly : Prop :=
  ∀ (i : Instr) (s t : State) (v w : Word), (∀ c ∈ i.codesRead, c.toNat ≠ 4 ∧ c.toNat ≠ 5) → exec i s = .next t →
    ∃ t', exec i { s with lst := v, fl0 := w } = .next t' ∧ t' = { t with lst := t'.lst, fl0 := t'.fl0 }

/-- The link register changes only by CAL or a write through code 6, the backup accumulator only by SWP, SAV or code 2, and the stack
pointer only by INC, DEC, PSH or code 3 (10_state.md R24, R25, R28, R33). -/
def Obligations.RegisterWriters : Prop :=
  ∀ (i : Instr) (s t : State), exec i s = .next t →
    (t.fl1 ≠ s.fl1 → (∃ tgt, i = .cal tgt) ∨ ∃ c ∈ i.codesWritten, c.toNat = 6) ∧
    (t.bak ≠ s.bak → i = .swp ∨ i = .sav ∨ ∃ c ∈ i.codesWritten, c.toNat = 2) ∧
    (t.stk ≠ s.stk → i = .inc ∨ i = .dec ∨ i = .psh ∨ ∃ c ∈ i.codesWritten, c.toNat = 3)

/-! ### Data movement -/

/-- 41_data_movement.md R120: NOP completes and changes nothing. -/
def Obligations.NopResult : Prop :=
  ∀ s : State, encode .nop = [0x00] ∧ ∃ t, exec .nop s = .next t ∧ t.outcome = .success ∧ Keeps [] [] s t

/-- 41_data_movement.md R121: ZRO writes 0 through a code that may be read and written, and else stops. -/
def Obligations.ZroResult : Prop :=
  ∀ (rc : Word) (s : State), encode (.zro rc) = [0x01, rc] ∧
    (∀ r, regOfCode rc = some r → r ≠ .lst →
      ∃ t, exec (.zro rc) s = .next t ∧ t.outcome = .success ∧ t.get r = 0 ∧ t.lst = 0 ∧ Keeps [r, .lst] [] s t) ∧
    (rc.toNat = 4 ∨ 7 ≤ rc.toNat → exec (.zro rc) s = .next (Stopped .invalidRegisterReference s))

/-- 41_data_movement.md R122: LDI writes the immediate through a code that may be written, and else stops. -/
def Obligations.LdiResult : Prop :=
  ∀ (imm rc : Word) (s : State), encode (.ldi imm rc) = [0x02, imm, rc] ∧
    (∀ r, regOfCode rc = some r → r ≠ .lst →
      ∃ t, exec (.ldi imm rc) s = .next t ∧ t.outcome = .success ∧ t.get r = imm ∧ t.lst = imm ∧ Keeps [r, .lst] [] s t) ∧
    (rc.toNat = 4 ∨ 7 ≤ rc.toNat → exec (.ldi imm rc) s = .next (Stopped .invalidRegisterReference s))

/-- 41_data_movement.md R123: MOV copies a readable register to a writable one, the same one included, and else stops. -/
def Obligations.MovResult : Prop :=
  ∀ (rs rd : Word) (s : State), encode (.mov rs rd) = [0x03, rs, rd] ∧
    (∀ a b, regOfCode rs = some a → regOfCode rd = some b → b ≠ .lst →
      ∃ t, exec (.mov rs rd) s = .next t ∧ t.outcome = .success ∧ t.get b = s.get a ∧ t.lst = s.get a ∧
        Keeps [b, .lst] [] s t) ∧
    (7 ≤ rs.toNat ∨ rd.toNat = 4 ∨ 7 ≤ rd.toNat → exec (.mov rs rd) s = .next (Stopped .invalidRegisterReference s))

/-! ### Accumulator -/

/-- 42_accumulator.md R130, R136: ADDI adds modulo 2^32 into `acc` and `lst`. -/
def Obligations.AddiResult : Prop :=
  ∀ (imm : Word) (s : State), encode (.addi imm) = [0x04, imm] ∧
    ∃ t, exec (.addi imm) s = .next t ∧ t.outcome = .success ∧ t.acc.toNat = (s.acc.toNat + imm.toNat) % 2 ^ 32 ∧
      t.lst = t.acc ∧ Keeps [.acc, .lst] [] s t

/-- 42_accumulator.md R131, R136: SUBI subtracts modulo 2^32 into `acc` and `lst`. -/
def Obligations.SubiResult : Prop :=
  ∀ (imm : Word) (s : State), encode (.subi imm) = [0x05, imm] ∧
    ∃ t, exec (.subi imm) s = .next t ∧ t.outcome = .success ∧
      (t.acc.toNat : Int) = ((s.acc.toNat : Int) - (imm.toNat : Int)) % 2 ^ 32 ∧ t.lst = t.acc ∧ Keeps [.acc, .lst] [] s t

/-- 42_accumulator.md R132: ADDR adds a readable register, `acc` and `lst` among them, and else stops. -/
def Obligations.AddrResult : Prop :=
  ∀ (rc : Word) (s : State), encode (.addr rc) = [0x06, rc] ∧
    (∀ r, regOfCode rc = some r →
      ∃ t, exec (.addr rc) s = .next t ∧ t.outcome = .success ∧
        t.acc.toNat = (s.acc.toNat + (s.get r).toNat) % 2 ^ 32 ∧ t.lst = t.acc ∧ Keeps [.acc, .lst] [] s t) ∧
    (7 ≤ rc.toNat → exec (.addr rc) s = .next (Stopped .invalidRegisterReference s))

/-- 42_accumulator.md R133: SUBR subtracts a readable register, and else stops. -/
def Obligations.SubrResult : Prop :=
  ∀ (rc : Word) (s : State), encode (.subr rc) = [0x07, rc] ∧
    (∀ r, regOfCode rc = some r →
      ∃ t, exec (.subr rc) s = .next t ∧ t.outcome = .success ∧
        (t.acc.toNat : Int) = ((s.acc.toNat : Int) - ((s.get r).toNat : Int)) % 2 ^ 32 ∧ t.lst = t.acc ∧
        Keeps [.acc, .lst] [] s t) ∧
    (7 ≤ rc.toNat → exec (.subr rc) s = .next (Stopped .invalidRegisterReference s))

/-- 42_accumulator.md R134: SWP exchanges `acc` and `bak` and writes no other register, `lst` included. -/
def Obligations.SwpResult : Prop :=
  ∀ s : State, encode .swp = [0x08] ∧
    ∃ t, exec .swp s = .next t ∧ t.outcome = .success ∧ t.acc = s.bak ∧ t.bak = s.acc ∧ Keeps [.acc, .bak] [] s t

/-- 42_accumulator.md R135: SAV copies `acc` into `bak` and writes no other register. -/
def Obligations.SavResult : Prop :=
  ∀ s : State, encode .sav = [0x09] ∧
    ∃ t, exec .sav s = .next t ∧ t.outcome = .success ∧ t.bak = s.acc ∧ Keeps [.bak] [] s t

/-! ### Jumps -/

/-- 43_jumps.md R150: JMP sets `pcc` to its target, whatever it is, and nothing else. -/
def Obligations.JmpResult : Prop :=
  ∀ (tgt : Word) (s : State), encode (.jmp tgt) = [0x0A, tgt] ∧
    ∃ t, exec (.jmp tgt) s = .next t ∧ t.outcome = .success ∧ t.pcc = tgt ∧ Keeps [.pcc] [] s t

/-- 43_jumps.md R151 to R154: each conditional jump sets `pcc` exactly when its predicate of `acc` holds. -/
def Obligations.ConditionalJumpResults : Prop :=
  ∀ (tgt : Word) (s : State),
    (encode (.jez tgt) = [0x0B, tgt] ∧ ∃ t, exec (.jez tgt) s = .next t ∧ t.outcome = .success ∧
      t.pcc = (if s.acc.toNat = 0 then tgt else s.pcc) ∧ Keeps [.pcc] [] s t) ∧
    (encode (.jnz tgt) = [0x0C, tgt] ∧ ∃ t, exec (.jnz tgt) s = .next t ∧ t.outcome = .success ∧
      t.pcc = (if s.acc.toNat ≠ 0 then tgt else s.pcc) ∧ Keeps [.pcc] [] s t) ∧
    (encode (.jgz tgt) = [0x0D, tgt] ∧ ∃ t, exec (.jgz tgt) s = .next t ∧ t.outcome = .success ∧
      t.pcc = (if 0 < signed s.acc then tgt else s.pcc) ∧ Keeps [.pcc] [] s t) ∧
    (encode (.jlz tgt) = [0x0E, tgt] ∧ ∃ t, exec (.jlz tgt) s = .next t ∧ t.outcome = .success ∧
      t.pcc = (if signed s.acc < 0 then tgt else s.pcc) ∧ Keeps [.pcc] [] s t)

/-- A law the spec derives after 43_jumps.md R154: of JEZ and JNZ exactly one jumps, of JGZ and JLZ at most one, neither when
`acc` is 0. -/
def Obligations.ConditionalJumpLaws : Prop :=
  ∀ (tgt : Word) (s : State), ∃ e n g l, exec (.jez tgt) s = .next e ∧ exec (.jnz tgt) s = .next n ∧
    exec (.jgz tgt) s = .next g ∧ exec (.jlz tgt) s = .next l ∧
    ((e.pcc = tgt ∧ n.pcc = s.pcc) ∨ (e.pcc = s.pcc ∧ n.pcc = tgt)) ∧
    (g.pcc = s.pcc ∨ l.pcc = s.pcc) ∧ (s.acc = 0 → g.pcc = s.pcc ∧ l.pcc = s.pcc)

/-! ### Comparisons -/

/-- 44_compare.md R160 to R163: a compare with an immediate writes 1 or 0 into `fl0` and nothing else. -/
def Obligations.CompareImmediateResults : Prop :=
  ∀ (imm : Word) (s : State),
    (encode (.ceqi imm) = [0x0F, imm] ∧ ∃ t, exec (.ceqi imm) s = .next t ∧ t.outcome = .success ∧
      t.fl0 = (if s.acc.toNat = imm.toNat then 1 else 0) ∧ Keeps [.fl0] [] s t) ∧
    (encode (.cnei imm) = [0x10, imm] ∧ ∃ t, exec (.cnei imm) s = .next t ∧ t.outcome = .success ∧
      t.fl0 = (if s.acc.toNat ≠ imm.toNat then 1 else 0) ∧ Keeps [.fl0] [] s t) ∧
    (encode (.cgti imm) = [0x11, imm] ∧ ∃ t, exec (.cgti imm) s = .next t ∧ t.outcome = .success ∧
      t.fl0 = (if signed s.acc > signed imm then 1 else 0) ∧ Keeps [.fl0] [] s t) ∧
    (encode (.clti imm) = [0x12, imm] ∧ ∃ t, exec (.clti imm) s = .next t ∧ t.outcome = .success ∧
      t.fl0 = (if signed s.acc < signed imm then 1 else 0) ∧ Keeps [.fl0] [] s t)

/-- 44_compare.md R164 to R167: a compare with a readable register writes 1 or 0 into `fl0` and nothing else (comparing with the old
flag where the register is `fl0`), and else stops. -/
def Obligations.CompareRegisterResults : Prop :=
  ∀ (rc : Word) (s : State),
    (encode (.ceqr rc) = [0x13, rc] ∧ encode (.cner rc) = [0x14, rc] ∧ encode (.cgtr rc) = [0x15, rc] ∧
      encode (.cltr rc) = [0x16, rc]) ∧
    (∀ r, regOfCode rc = some r →
      (∃ t, exec (.ceqr rc) s = .next t ∧ t.outcome = .success ∧
        t.fl0 = (if s.acc.toNat = (s.get r).toNat then 1 else 0) ∧ Keeps [.fl0] [] s t) ∧
      (∃ t, exec (.cner rc) s = .next t ∧ t.outcome = .success ∧
        t.fl0 = (if s.acc.toNat ≠ (s.get r).toNat then 1 else 0) ∧ Keeps [.fl0] [] s t) ∧
      (∃ t, exec (.cgtr rc) s = .next t ∧ t.outcome = .success ∧
        t.fl0 = (if signed s.acc > signed (s.get r) then 1 else 0) ∧ Keeps [.fl0] [] s t) ∧
      (∃ t, exec (.cltr rc) s = .next t ∧ t.outcome = .success ∧
        t.fl0 = (if signed s.acc < signed (s.get r) then 1 else 0) ∧ Keeps [.fl0] [] s t)) ∧
    (7 ≤ rc.toNat →
      exec (.ceqr rc) s = .next (Stopped .invalidRegisterReference s) ∧
      exec (.cner rc) s = .next (Stopped .invalidRegisterReference s) ∧
      exec (.cgtr rc) s = .next (Stopped .invalidRegisterReference s) ∧
      exec (.cltr rc) s = .next (Stopped .invalidRegisterReference s))

/-- A law the spec derives after 44_compare.md R167: of ==, > and < exactly one writes 1, != writes the complement of ==, and the
register forms agree with the immediate forms. -/
def Obligations.CompareLaws : Prop :=
  (∀ (b : Word) (s : State), ∃ e n g l, exec (.ceqi b) s = .next e ∧ exec (.cnei b) s = .next n ∧
    exec (.cgti b) s = .next g ∧ exec (.clti b) s = .next l ∧ e.fl0.toNat + n.fl0.toNat = 1 ∧
    e.fl0.toNat + g.fl0.toNat + l.fl0.toNat = 1) ∧
  ∀ (rc : Word) (r : Reg) (s : State), regOfCode rc = some r →
    exec (.ceqr rc) s = exec (.ceqi (s.get r)) s ∧ exec (.cner rc) s = exec (.cnei (s.get r)) s ∧
    exec (.cgtr rc) s = exec (.cgti (s.get r)) s ∧ exec (.cltr rc) s = exec (.clti (s.get r)) s

/-! ### Loads and stores -/

/-- 45_stack.md R180: STA stores `acc` at `stk` and zeroes `acc`, and stops with both unchanged where the store may not be. -/
def Obligations.StaResult : Prop :=
  ∀ s : State, encode .sta = [0x17] ∧
    (s.Storable s.stk.toNat → ∃ t, exec .sta s = .next t ∧ t.outcome = .success ∧ t.word s.stk.toNat = s.acc ∧ t.acc = 0 ∧
      Keeps [.acc] [s.stk.toNat] s t) ∧
    (¬ s.Storable s.stk.toNat → exec .sta s = .next (Stopped .invalidStackAddress s))

/-- 45_stack.md R181: STR stores a readable register at `stk` and zeroes nothing; the register is checked first. -/
def Obligations.StrResult : Prop :=
  ∀ (rc : Word) (s : State), encode (.str rc) = [0x18, rc] ∧
    (7 ≤ rc.toNat → exec (.str rc) s = .next (Stopped .invalidRegisterReference s)) ∧
    (∀ r, regOfCode rc = some r →
      (s.Storable s.stk.toNat → ∃ t, exec (.str rc) s = .next t ∧ t.outcome = .success ∧ t.word s.stk.toNat = s.get r ∧
        Keeps [] [s.stk.toNat] s t) ∧
      (¬ s.Storable s.stk.toNat → exec (.str rc) s = .next (Stopped .invalidStackAddress s)))

/-- 45_stack.md R182: LDS writes the word at `stk`, or the host's INPUT of this step in the input-only region, through a writable
code; the register is checked first, and `stk` is read before it is written. -/
def Obligations.LdsResult : Prop :=
  ∀ (rc : Word) (s : State), encode (.lds rc) = [0x19, rc] ∧
    (rc.toNat = 4 ∨ 7 ≤ rc.toNat → exec (.lds rc) s = .next (Stopped .invalidRegisterReference s)) ∧
    (∀ r, regOfCode rc = some r → r ≠ .lst →
      (s.Loadable s.stk.toNat → ¬ s.InInput s.stk.toNat → ∃ t, exec (.lds rc) s = .next t ∧ t.outcome = .success ∧
        t.get r = s.word s.stk.toNat ∧ t.lst = s.word s.stk.toNat ∧ Keeps [r, .lst] [] s t) ∧
      (s.Loadable s.stk.toNat → s.InInput s.stk.toNat → ∃ t, exec (.lds rc) s = .next t ∧ t.outcome = .success ∧
        t.get r = Config.input s.stk.toNat s.stepIndex ∧ t.lst = Config.input s.stk.toNat s.stepIndex ∧
        Keeps [r, .lst] [] s t) ∧
      (¬ s.Loadable s.stk.toNat → exec (.lds rc) s = .next (Stopped .invalidStackAddress s)))

/-- 45_stack.md R183, R184: INC and DEC move `stk` by 1 modulo 2^32, with no check, and write nothing else. DEC from 0 gives
0xFFFFFFFF, at which, in a machine with an admitted region table, no load and no store may be. -/
def Obligations.IncDecResults : Prop :=
  ∀ s : State,
    (encode .inc = [0x1A] ∧ ∃ t, exec .inc s = .next t ∧ t.outcome = .success ∧
      t.stk.toNat = (s.stk.toNat + 1) % 2 ^ 32 ∧ Keeps [.stk] [] s t) ∧
    (encode .dec = [0x1B] ∧ ∃ t, exec .dec s = .next t ∧ t.outcome = .success ∧
      (t.stk.toNat : Int) = ((s.stk.toNat : Int) - 1) % 2 ^ 32 ∧ Keeps [.stk] [] s t) ∧
    (s.stk.toNat = 0 → ∃ t, exec .dec s = .next t ∧ t.stk.toNat = 0xFFFFFFFF ∧
      (s.layout.wf = true → t.region t.stk.toNat = none ∧ ¬ t.Loadable t.stk.toNat ∧ ¬ t.Storable t.stk.toNat))

/-- 45_stack.md R185: PSH stores `acc` at `stk`, zeroes `acc` and moves `stk` up by 1; where the store may not be it stops with all
unchanged. -/
def Obligations.PshResult : Prop :=
  ∀ s : State, encode .psh = [0x1C] ∧
    (s.Storable s.stk.toNat → ∃ t, exec .psh s = .next t ∧ t.outcome = .success ∧ t.word s.stk.toNat = s.acc ∧ t.acc = 0 ∧
      t.stk.toNat = (s.stk.toNat + 1) % 2 ^ 32 ∧ Keeps [.acc, .stk] [s.stk.toNat] s t) ∧
    (¬ s.Storable s.stk.toNat → exec .psh s = .next (Stopped .invalidStackAddress s))

/-- A law the spec derives (20_memory.md R59): a store and then a load at the same `stk`, where both are allowed and the host does
not answer the load, gives the word stored. After PSH, which moves `stk`, the load is the pop of 45_stack.md R186: DEC, then LDS. -/
def Obligations.StoreThenLoad : Prop :=
  ∀ (s : State) (rd : Word) (b : Reg), regOfCode rd = some b → b ≠ .lst →
    s.Storable s.stk.toNat → s.Loadable s.stk.toNat → ¬ s.InInput s.stk.toNat →
    (∀ rs a, regOfCode rs = some a →
      ∃ t u, exec (.str rs) s = .next t ∧ exec (.lds rd) t = .next u ∧ u.outcome = .success ∧ u.get b = s.get a) ∧
    (∃ t u, exec .sta s = .next t ∧ exec (.lds rd) t = .next u ∧ u.outcome = .success ∧ u.get b = s.acc) ∧
    (∃ t u v, exec .psh s = .next t ∧ exec .dec t = .next u ∧ u.stk = s.stk ∧ exec (.lds rd) u = .next v ∧
      v.outcome = .success ∧ v.get b = s.acc)

/-! ### Call, return, halt -/

/-- 46_call_halt.md R200: CAL saves the address of the next instruction in `fl1`, over what was there, and jumps. -/
def Obligations.CalResult : Prop :=
  ∀ (tgt : Word) (s : State), encode (.cal tgt) = [0x1D, tgt] ∧
    ∃ t, exec (.cal tgt) s = .next t ∧ t.outcome = .success ∧ t.fl1 = s.pcc ∧ t.pcc = tgt ∧ Keeps [.pcc, .fl1] [] s t

/-- 46_call_halt.md R201: RET jumps to `fl1` where it is an index of the program, and else stops with Failure. The bound is the spec's
decision D17. -/
def Obligations.RetResult : Prop :=
  ∀ s : State, encode .ret = [0x1E] ∧
    (s.fl1.toNat < s.program.length →
      ∃ t, exec .ret s = .next t ∧ t.outcome = .success ∧ t.pcc = s.fl1 ∧ Keeps [.pcc] [] s t) ∧
    (s.program.length ≤ s.fl1.toNat → exec .ret s = .next (Stopped .failure s))

/-- 46_call_halt.md R202: HLT ends the run normally and changes nothing but the status. The spec's decision D16. -/
def Obligations.HltResult : Prop :=
  ∀ s : State, encode .hlt = [0x1F] ∧
    ∃ t, exec .hlt s = .next t ∧ t.running = false ∧ t.finished = true ∧ t.outcome = .success ∧
      t = { s with running := t.running, finished := t.finished, outcome := t.outcome }

/-- A law the spec derives (46_call_halt.md R204): a CAL at A whose target holds a RET resumes, two steps later, at A + 2. -/
def Obligations.CallThenReturn : Prop :=
  ∀ (s : State) (tgt : Word), s.running = true → s.program[s.pcc.toNat]? = some 0x1D →
    s.program[s.pcc.toNat + 1]? = some tgt → s.program[tgt.toNat]? = some 0x1E →
    s.pcc.toNat + 2 < s.program.length → s.program.length < 2 ^ 32 →
    ∃ t u, step s = .next t ∧ step t = .next u ∧ u.pcc.toNat = s.pcc.toNat + 2 ∧ u.outcome = .success ∧ u.running = true

/-! ### Faults -/

/-- 60_exceptions.md R222: an execute phase that does not end in Success has changed nothing but `running`, to false, and the
outcome. -/
def Obligations.FaultChangesNothingElse : Prop :=
  ∀ (i : Instr) (s t : State), exec i s = .next t → t.outcome ≠ .success → t = Stopped t.outcome s

/-- 40_cycle.md R109 (which the spec derives): a faulting step leaves the state before it but for `pcc`, past the last word fetched,
`running`, the outcome and the step index. The words fetched are one for an illegal opcode word (R103), all that were left for a
truncated instruction (R104), and the instruction's own where one was decoded (R106). -/
def Obligations.FaultingStepState : Prop :=
  ∀ s t : State, s.running = true → step s = .next t → t.outcome ≠ .success →
    ∃ n, 1 ≤ n ∧ n ≤ 3 ∧ s.pcc.toNat + n ≤ s.program.length ∧
      (∀ op, s.program[s.pcc.toNat]? = some op → 0x20 ≤ op.toNat → n = 1) ∧
      (∀ op, s.program[s.pcc.toNat]? = some op → op.toNat < 0x20 →
        s.program.length - s.pcc.toNat < opcodeWords op.toNat → n = s.program.length - s.pcc.toNat) ∧
      (∀ i rest, decode (s.program.drop s.pcc.toNat) = .ok (i, rest) → n = (encode i).length) ∧
      t = { s with pcc := s.pcc + BitVec.ofNat 32 n, running := false, outcome := t.outcome, stepIndex := s.stepIndex + 1 }

/-- Which instruction reports which fault, and when (60_exceptions.md R221, the table's causes, and R226, the register check before the
memory check). -/
def Obligations.FaultCauses : Prop :=
  ∀ (i : Instr) (s t : State), exec i s = .next t →
    (t.outcome = .invalidRegisterReference ↔ i.codesPermitted = false) ∧
    (t.outcome = .invalidStackAddress ↔ i.codesPermitted = true ∧
      (((i = .sta ∨ i = .psh ∨ ∃ rc, i = .str rc) ∧ ¬ s.Storable s.stk.toNat) ∨
        ((∃ rc, i = .lds rc) ∧ ¬ s.Loadable s.stk.toNat))) ∧
    (t.outcome = .failure ↔ i = .ret ∧ s.program.length ≤ s.fl1.toNat) ∧
    t.outcome ≠ .decodeFault

/-! ### Memory and the whole machine -/

/-- 20_memory.md R55: the only word a step can change is the one at `stk`. -/
def Obligations.OnlyTheStackWordChanges : Prop :=
  ∀ s t : State, step s = .next t → ∀ a, a ≠ s.stk.toNat → t.word a = s.word a

/-- 20_memory.md R57, R65: no step changes a word that no region covers or whose region is not writable. -/
def Obligations.ProtectedWordsKept : Prop :=
  ∀ (s t : State) (a : Nat), step s = .next t → ¬ s.Storable a → t.word a = s.word a

/-- 20_memory.md R55, R56, R60, R66: of the whole Word Store a step uses at most the word at `stk`, and not even that in the input-only
region. Two machines that differ only in other words take the same step, but for the memory; and every word on which they agreed
before it they agree on after it, so the step stores the same word. -/
def Obligations.StepUsesOneDataWord : Prop :=
  ∀ (s t : State) (m : Memory), step s = .next t →
    (s.InInput s.stk.toNat ∨ State.word { s with mem := m } s.stk.toNat = s.word s.stk.toNat) →
    ∃ m', step { s with mem := m } = .next { t with mem := m' } ∧
      ∀ a, State.word { s with mem := m } a = s.word a → State.word { t with mem := m' } a = t.word a

/-- 10_state.md R41, 20_memory.md R51: no step changes the program, the region table, MEM_SIZE or PROG_CAP. -/
def Obligations.ConstructionFixed : Prop :=
  ∀ s t : State, step s = .next t → t.program = s.program ∧ t.layout = s.layout

/-- 20_memory.md R66: in every machine the CORE reaches whose program region is not writable, the word at the region's base plus an
index of the program is the word a fetch there reads. -/
def Obligations.ProgramCopyReads : Prop :=
  ∀ (s : State) (r : Region) (k : Nat) (w : Word), s.Inv → regionNamed s.layout .program = some r → r.writable = false →
    s.program[k]? = some w → s.word (r.base + k) = w

/-- The invariant of Safety.lean: every step keeps it. -/
def Obligations.StepKeepsInvariant : Prop :=
  ∀ s t : State, s.Inv → step s = .next t → t.Inv

/-- The invariant holds right after reset. That the reset state has no program words (notes/assumptions/6.md) and that its outcome port
holds success before the first STEP (notes/assumptions/2.md), on which the clause about a reported fault rests, are the model's choices
(DESIGN CHOICE), no rules of the spec. -/
def Obligations.InvariantAtReset : Prop :=
  State.reset.Inv

/-- The invariant holds of every machine CREATE makes, for every layout and program it accepts. That CREATE refuses a region table the
checks exclude (notes/assumptions/14.md), on which the clause about the layout rests, and that the outcome port holds success before the
first STEP (notes/assumptions/2.md), on which the clause about a reported fault rests, are the model's choices (DESIGN CHOICE), no rules
of the spec. -/
def Obligations.InvariantAtCreate : Prop :=
  ∀ (l : Layout) (p : List Word) (s : State), create l p = .next s → s.Inv

/-! ### Reset and the host -/

/-- 70_reset_and_hazards.md R260, 10_state.md R40, 20_memory.md R60: the state CREATE leaves. The zeros are the spec's decisions D19 and
D21. Nothing is said of the outcome port, which the spec gives no value there. -/
def Obligations.ConstructedState : Prop :=
  ∀ (l : Layout) (p : List Word), l.wf = true → p.length ≤ l.progCap →
    ∃ t, create l p = .next t ∧ (∀ r, t.get r = 0) ∧ t.running = true ∧ t.finished = false ∧ t.program = p ∧ t.layout = l ∧
      t.stepIndex = 0 ∧
      (∀ r k w, regionNamed l .program = some r → p[k]? = some w → t.word (r.base + k) = w) ∧
      (∀ a, (∀ r k, regionNamed l .program = some r → k < p.length → a ≠ r.base + k) → t.word a = 0)

/-- The state right after reset, which is CREATE with the reference layout and the program of no words (the latter the model's choice,
notes/assumptions/6.md): every register 0, running, not finished, every word of the Word Store 0, step index 0. -/
def Obligations.ResetValues : Prop :=
  create Layout.reference [] = .next State.reset ∧ (∀ r, State.reset.get r = 0) ∧ State.reset.running = true ∧
  State.reset.finished = false ∧ State.reset.stepIndex = 0 ∧ ∀ a, State.reset.word a = 0

/-- 60_exceptions.md R241: CREATE of a program longer than PROG_CAP makes no machine. -/
def Obligations.CreateTooLong : Prop :=
  ∀ (l : Layout) (p : List Word), l.wf = true → l.progCap < p.length → create l p = .fault .programTooLarge

/-- 20_memory.md R53: the reference layout, address by address, and that it is a table the spec admits. -/
def Obligations.ReferenceLayout : Prop :=
  Layout.reference.wf = true ∧ Layout.reference.memSize = 4096 ∧ Layout.reference.progCap = 1024 ∧
  ∀ a : Nat, regionOf Layout.reference a =
    if a ≤ 0x03FF then some ⟨.program, 0x0000, 1024, true, false⟩
    else if a ≤ 0x04FF then some ⟨.input, 0x0400, 256, true, false⟩
    else if a ≤ 0x05FF then some ⟨.stack, 0x0500, 256, true, true⟩
    else if a ≤ 0x0FFF then some ⟨.ram, 0x0600, 2560, true, true⟩
    else none

/-- 60_exceptions.md R243: READ_MEM gives the words held, whatever the regions' permissions, and refuses a window that leaves the
regions. What it gives in the input-only region is the model's choice (notes/assumptions/11.md), of which nothing is said. -/
def Obligations.ReadMemory : Prop :=
  ∀ (s : State) (base n : Nat),
    (∀ ws, readMem base n s = .ok ws → ws.length = n ∧
      ∀ k w, ws[k]? = some w → ¬ s.InInput (base + k) → w = s.word (base + k)) ∧
    (readMem base n s = .error .readMemOutOfBounds ↔ ∃ k, k < n ∧ s.region (base + k) = none) ∧
    ((∀ k, k < n → s.region (base + k) ≠ none) → ∃ ws, readMem base n s = .ok ws)

/-- 20_memory.md R61, 60_exceptions.md R246: the words of a program file, which the host's loader makes (outside the CORE). -/
def Obligations.FileWords : Prop :=
  (∀ b0 b1 b2 b3 : Byte, (wordOfBytes b0 b1 b2 b3).toNat =
    b0.toNat * 2 ^ 24 + b1.toNat * 2 ^ 16 + b2.toNat * 2 ^ 8 + b3.toNat) ∧
  (∀ bs : List Byte, programOfBytes bs = none ↔ bs.length % 4 ≠ 0) ∧
  ∀ (bs : List Byte) (ws : List Word), programOfBytes bs = some ws → 4 * ws.length = bs.length ∧
    ∀ k b0 b1 b2 b3, bs[4 * k]? = some b0 → bs[4 * k + 1]? = some b1 → bs[4 * k + 2]? = some b2 → bs[4 * k + 3]? = some b3 →
      ws[k]? = some (wordOfBytes b0 b1 b2 b3)
end

