-- ==== Sys2Proof/Laws/State.lean ====
section
/-!
SUPPORT. One lemma per field per named update of State, so that no proof unfolds a record update.
-/

namespace Sys2Proof.Machine

@[simp] theorem State.succeeded_pcc (s : State) : (s.succeeded).pcc = s.pcc := rfl
@[simp] theorem State.succeeded_acc (s : State) : (s.succeeded).acc = s.acc := rfl
@[simp] theorem State.succeeded_bak (s : State) : (s.succeeded).bak = s.bak := rfl
@[simp] theorem State.succeeded_stk (s : State) : (s.succeeded).stk = s.stk := rfl
@[simp] theorem State.succeeded_lst (s : State) : (s.succeeded).lst = s.lst := rfl
@[simp] theorem State.succeeded_fl0 (s : State) : (s.succeeded).fl0 = s.fl0 := rfl
@[simp] theorem State.succeeded_fl1 (s : State) : (s.succeeded).fl1 = s.fl1 := rfl
@[simp] theorem State.succeeded_running (s : State) : (s.succeeded).running = s.running := rfl
@[simp] theorem State.succeeded_finished (s : State) : (s.succeeded).finished = s.finished := rfl
@[simp] theorem State.succeeded_mem (s : State) : (s.succeeded).mem = s.mem := rfl
@[simp] theorem State.succeeded_program (s : State) : (s.succeeded).program = s.program := rfl
@[simp] theorem State.succeeded_layout (s : State) : (s.succeeded).layout = s.layout := rfl
@[simp] theorem State.succeeded_stepIndex (s : State) : (s.succeeded).stepIndex = s.stepIndex := rfl
@[simp] theorem State.succeeded_outcome (s : State) : (s.succeeded).outcome = .success := rfl

@[simp] theorem State.stopped_pcc (s : State) (o : StepOutcome) : (s.stopped o).pcc = s.pcc := rfl
@[simp] theorem State.stopped_acc (s : State) (o : StepOutcome) : (s.stopped o).acc = s.acc := rfl
@[simp] theorem State.stopped_bak (s : State) (o : StepOutcome) : (s.stopped o).bak = s.bak := rfl
@[simp] theorem State.stopped_stk (s : State) (o : StepOutcome) : (s.stopped o).stk = s.stk := rfl
@[simp] theorem State.stopped_lst (s : State) (o : StepOutcome) : (s.stopped o).lst = s.lst := rfl
@[simp] theorem State.stopped_fl0 (s : State) (o : StepOutcome) : (s.stopped o).fl0 = s.fl0 := rfl
@[simp] theorem State.stopped_fl1 (s : State) (o : StepOutcome) : (s.stopped o).fl1 = s.fl1 := rfl
@[simp] theorem State.stopped_running (s : State) (o : StepOutcome) : (s.stopped o).running = false := rfl
@[simp] theorem State.stopped_finished (s : State) (o : StepOutcome) : (s.stopped o).finished = s.finished := rfl
@[simp] theorem State.stopped_mem (s : State) (o : StepOutcome) : (s.stopped o).mem = s.mem := rfl
@[simp] theorem State.stopped_program (s : State) (o : StepOutcome) : (s.stopped o).program = s.program := rfl
@[simp] theorem State.stopped_layout (s : State) (o : StepOutcome) : (s.stopped o).layout = s.layout := rfl
@[simp] theorem State.stopped_stepIndex (s : State) (o : StepOutcome) : (s.stopped o).stepIndex = s.stepIndex := rfl
@[simp] theorem State.stopped_outcome (s : State) (o : StepOutcome) : (s.stopped o).outcome = o := rfl

@[simp] theorem State.accumulate_pcc (s : State) (v : Word) : (s.accumulate v).pcc = s.pcc := rfl
@[simp] theorem State.accumulate_acc (s : State) (v : Word) : (s.accumulate v).acc = v := rfl
@[simp] theorem State.accumulate_bak (s : State) (v : Word) : (s.accumulate v).bak = s.bak := rfl
@[simp] theorem State.accumulate_stk (s : State) (v : Word) : (s.accumulate v).stk = s.stk := rfl
@[simp] theorem State.accumulate_lst (s : State) (v : Word) : (s.accumulate v).lst = v := rfl
@[simp] theorem State.accumulate_fl0 (s : State) (v : Word) : (s.accumulate v).fl0 = s.fl0 := rfl
@[simp] theorem State.accumulate_fl1 (s : State) (v : Word) : (s.accumulate v).fl1 = s.fl1 := rfl
@[simp] theorem State.accumulate_running (s : State) (v : Word) : (s.accumulate v).running = s.running := rfl
@[simp] theorem State.accumulate_finished (s : State) (v : Word) : (s.accumulate v).finished = s.finished := rfl
@[simp] theorem State.accumulate_mem (s : State) (v : Word) : (s.accumulate v).mem = s.mem := rfl
@[simp] theorem State.accumulate_program (s : State) (v : Word) : (s.accumulate v).program = s.program := rfl
@[simp] theorem State.accumulate_layout (s : State) (v : Word) : (s.accumulate v).layout = s.layout := rfl
@[simp] theorem State.accumulate_stepIndex (s : State) (v : Word) : (s.accumulate v).stepIndex = s.stepIndex := rfl
@[simp] theorem State.accumulate_outcome (s : State) (v : Word) : (s.accumulate v).outcome = s.outcome := rfl

@[simp] theorem State.jump_pcc (s : State) (v : Word) : (s.jump v).pcc = v := rfl
@[simp] theorem State.jump_acc (s : State) (v : Word) : (s.jump v).acc = s.acc := rfl
@[simp] theorem State.jump_bak (s : State) (v : Word) : (s.jump v).bak = s.bak := rfl
@[simp] theorem State.jump_stk (s : State) (v : Word) : (s.jump v).stk = s.stk := rfl
@[simp] theorem State.jump_lst (s : State) (v : Word) : (s.jump v).lst = s.lst := rfl
@[simp] theorem State.jump_fl0 (s : State) (v : Word) : (s.jump v).fl0 = s.fl0 := rfl
@[simp] theorem State.jump_fl1 (s : State) (v : Word) : (s.jump v).fl1 = s.fl1 := rfl
@[simp] theorem State.jump_running (s : State) (v : Word) : (s.jump v).running = s.running := rfl
@[simp] theorem State.jump_finished (s : State) (v : Word) : (s.jump v).finished = s.finished := rfl
@[simp] theorem State.jump_mem (s : State) (v : Word) : (s.jump v).mem = s.mem := rfl
@[simp] theorem State.jump_program (s : State) (v : Word) : (s.jump v).program = s.program := rfl
@[simp] theorem State.jump_layout (s : State) (v : Word) : (s.jump v).layout = s.layout := rfl
@[simp] theorem State.jump_stepIndex (s : State) (v : Word) : (s.jump v).stepIndex = s.stepIndex := rfl
@[simp] theorem State.jump_outcome (s : State) (v : Word) : (s.jump v).outcome = s.outcome := rfl

@[simp] theorem State.advance_pcc (s : State) (n : Nat) : (s.advance n).pcc = s.pcc + BitVec.ofNat 32 n := rfl
@[simp] theorem State.advance_acc (s : State) (n : Nat) : (s.advance n).acc = s.acc := rfl
@[simp] theorem State.advance_bak (s : State) (n : Nat) : (s.advance n).bak = s.bak := rfl
@[simp] theorem State.advance_stk (s : State) (n : Nat) : (s.advance n).stk = s.stk := rfl
@[simp] theorem State.advance_lst (s : State) (n : Nat) : (s.advance n).lst = s.lst := rfl
@[simp] theorem State.advance_fl0 (s : State) (n : Nat) : (s.advance n).fl0 = s.fl0 := rfl
@[simp] theorem State.advance_fl1 (s : State) (n : Nat) : (s.advance n).fl1 = s.fl1 := rfl
@[simp] theorem State.advance_running (s : State) (n : Nat) : (s.advance n).running = s.running := rfl
@[simp] theorem State.advance_finished (s : State) (n : Nat) : (s.advance n).finished = s.finished := rfl
@[simp] theorem State.advance_mem (s : State) (n : Nat) : (s.advance n).mem = s.mem := rfl
@[simp] theorem State.advance_program (s : State) (n : Nat) : (s.advance n).program = s.program := rfl
@[simp] theorem State.advance_layout (s : State) (n : Nat) : (s.advance n).layout = s.layout := rfl
@[simp] theorem State.advance_stepIndex (s : State) (n : Nat) : (s.advance n).stepIndex = s.stepIndex := rfl
@[simp] theorem State.advance_outcome (s : State) (n : Nat) : (s.advance n).outcome = s.outcome := rfl

@[simp] theorem State.tick_pcc (s : State) : (s.tick).pcc = s.pcc := rfl
@[simp] theorem State.tick_acc (s : State) : (s.tick).acc = s.acc := rfl
@[simp] theorem State.tick_bak (s : State) : (s.tick).bak = s.bak := rfl
@[simp] theorem State.tick_stk (s : State) : (s.tick).stk = s.stk := rfl
@[simp] theorem State.tick_lst (s : State) : (s.tick).lst = s.lst := rfl
@[simp] theorem State.tick_fl0 (s : State) : (s.tick).fl0 = s.fl0 := rfl
@[simp] theorem State.tick_fl1 (s : State) : (s.tick).fl1 = s.fl1 := rfl
@[simp] theorem State.tick_running (s : State) : (s.tick).running = s.running := rfl
@[simp] theorem State.tick_finished (s : State) : (s.tick).finished = s.finished := rfl
@[simp] theorem State.tick_mem (s : State) : (s.tick).mem = s.mem := rfl
@[simp] theorem State.tick_program (s : State) : (s.tick).program = s.program := rfl
@[simp] theorem State.tick_layout (s : State) : (s.tick).layout = s.layout := rfl
@[simp] theorem State.tick_stepIndex (s : State) : (s.tick).stepIndex = s.stepIndex + 1 := rfl
@[simp] theorem State.tick_outcome (s : State) : (s.tick).outcome = s.outcome := rfl

@[simp] theorem State.ended_pcc (s : State) : (s.ended).pcc = s.pcc := rfl
@[simp] theorem State.ended_acc (s : State) : (s.ended).acc = s.acc := rfl
@[simp] theorem State.ended_bak (s : State) : (s.ended).bak = s.bak := rfl
@[simp] theorem State.ended_stk (s : State) : (s.ended).stk = s.stk := rfl
@[simp] theorem State.ended_lst (s : State) : (s.ended).lst = s.lst := rfl
@[simp] theorem State.ended_fl0 (s : State) : (s.ended).fl0 = s.fl0 := rfl
@[simp] theorem State.ended_fl1 (s : State) : (s.ended).fl1 = s.fl1 := rfl
@[simp] theorem State.ended_running (s : State) : (s.ended).running = false := rfl
@[simp] theorem State.ended_finished (s : State) : (s.ended).finished = true := rfl
@[simp] theorem State.ended_mem (s : State) : (s.ended).mem = s.mem := rfl
@[simp] theorem State.ended_program (s : State) : (s.ended).program = s.program := rfl
@[simp] theorem State.ended_layout (s : State) : (s.ended).layout = s.layout := rfl
@[simp] theorem State.ended_stepIndex (s : State) : (s.ended).stepIndex = s.stepIndex := rfl
@[simp] theorem State.ended_outcome (s : State) : (s.ended).outcome = .success := rfl

@[simp] theorem State.halt_pcc (s : State) : (s.halt).pcc = s.pcc := rfl
@[simp] theorem State.halt_acc (s : State) : (s.halt).acc = s.acc := rfl
@[simp] theorem State.halt_bak (s : State) : (s.halt).bak = s.bak := rfl
@[simp] theorem State.halt_stk (s : State) : (s.halt).stk = s.stk := rfl
@[simp] theorem State.halt_lst (s : State) : (s.halt).lst = s.lst := rfl
@[simp] theorem State.halt_fl0 (s : State) : (s.halt).fl0 = s.fl0 := rfl
@[simp] theorem State.halt_fl1 (s : State) : (s.halt).fl1 = s.fl1 := rfl
@[simp] theorem State.halt_running (s : State) : (s.halt).running = false := rfl
@[simp] theorem State.halt_finished (s : State) : (s.halt).finished = true := rfl
@[simp] theorem State.halt_mem (s : State) : (s.halt).mem = s.mem := rfl
@[simp] theorem State.halt_program (s : State) : (s.halt).program = s.program := rfl
@[simp] theorem State.halt_layout (s : State) : (s.halt).layout = s.layout := rfl
@[simp] theorem State.halt_stepIndex (s : State) : (s.halt).stepIndex = s.stepIndex := rfl
@[simp] theorem State.halt_outcome (s : State) : (s.halt).outcome = s.outcome := rfl

@[simp] theorem State.idle_pcc (s : State) : (s.idle).pcc = s.pcc := rfl
@[simp] theorem State.idle_acc (s : State) : (s.idle).acc = s.acc := rfl
@[simp] theorem State.idle_bak (s : State) : (s.idle).bak = s.bak := rfl
@[simp] theorem State.idle_stk (s : State) : (s.idle).stk = s.stk := rfl
@[simp] theorem State.idle_lst (s : State) : (s.idle).lst = s.lst := rfl
@[simp] theorem State.idle_fl0 (s : State) : (s.idle).fl0 = s.fl0 := rfl
@[simp] theorem State.idle_fl1 (s : State) : (s.idle).fl1 = s.fl1 := rfl
@[simp] theorem State.idle_running (s : State) : (s.idle).running = s.running := rfl
@[simp] theorem State.idle_finished (s : State) : (s.idle).finished = s.finished := rfl
@[simp] theorem State.idle_mem (s : State) : (s.idle).mem = s.mem := rfl
@[simp] theorem State.idle_program (s : State) : (s.idle).program = s.program := rfl
@[simp] theorem State.idle_layout (s : State) : (s.idle).layout = s.layout := rfl
@[simp] theorem State.idle_stepIndex (s : State) : (s.idle).stepIndex = s.stepIndex := rfl
@[simp] theorem State.idle_outcome (s : State) : (s.idle).outcome = .success := rfl

@[simp] theorem State.setFlag_pcc (s : State) (b : Bool) : (s.setFlag b).pcc = s.pcc := rfl
@[simp] theorem State.setFlag_acc (s : State) (b : Bool) : (s.setFlag b).acc = s.acc := rfl
@[simp] theorem State.setFlag_bak (s : State) (b : Bool) : (s.setFlag b).bak = s.bak := rfl
@[simp] theorem State.setFlag_stk (s : State) (b : Bool) : (s.setFlag b).stk = s.stk := rfl
@[simp] theorem State.setFlag_lst (s : State) (b : Bool) : (s.setFlag b).lst = s.lst := rfl
@[simp] theorem State.setFlag_fl0 (s : State) (b : Bool) : (s.setFlag b).fl0 = boolWord b := rfl
@[simp] theorem State.setFlag_fl1 (s : State) (b : Bool) : (s.setFlag b).fl1 = s.fl1 := rfl
@[simp] theorem State.setFlag_running (s : State) (b : Bool) : (s.setFlag b).running = s.running := rfl
@[simp] theorem State.setFlag_finished (s : State) (b : Bool) : (s.setFlag b).finished = s.finished := rfl
@[simp] theorem State.setFlag_mem (s : State) (b : Bool) : (s.setFlag b).mem = s.mem := rfl
@[simp] theorem State.setFlag_program (s : State) (b : Bool) : (s.setFlag b).program = s.program := rfl
@[simp] theorem State.setFlag_layout (s : State) (b : Bool) : (s.setFlag b).layout = s.layout := rfl
@[simp] theorem State.setFlag_stepIndex (s : State) (b : Bool) : (s.setFlag b).stepIndex = s.stepIndex := rfl
@[simp] theorem State.setFlag_outcome (s : State) (b : Bool) : (s.setFlag b).outcome = s.outcome := rfl

@[simp] theorem State.storeWord_pcc (s : State) (a : Nat) (v : Word) : (s.storeWord a v).pcc = s.pcc := rfl
@[simp] theorem State.storeWord_acc (s : State) (a : Nat) (v : Word) : (s.storeWord a v).acc = s.acc := rfl
@[simp] theorem State.storeWord_bak (s : State) (a : Nat) (v : Word) : (s.storeWord a v).bak = s.bak := rfl
@[simp] theorem State.storeWord_stk (s : State) (a : Nat) (v : Word) : (s.storeWord a v).stk = s.stk := rfl
@[simp] theorem State.storeWord_lst (s : State) (a : Nat) (v : Word) : (s.storeWord a v).lst = s.lst := rfl
@[simp] theorem State.storeWord_fl0 (s : State) (a : Nat) (v : Word) : (s.storeWord a v).fl0 = s.fl0 := rfl
@[simp] theorem State.storeWord_fl1 (s : State) (a : Nat) (v : Word) : (s.storeWord a v).fl1 = s.fl1 := rfl
@[simp] theorem State.storeWord_running (s : State) (a : Nat) (v : Word) : (s.storeWord a v).running = s.running := rfl
@[simp] theorem State.storeWord_finished (s : State) (a : Nat) (v : Word) : (s.storeWord a v).finished = s.finished := rfl
@[simp] theorem State.storeWord_mem (s : State) (a : Nat) (v : Word) : (s.storeWord a v).mem = Memory.write s.unlisted a v s.mem := rfl
@[simp] theorem State.storeWord_program (s : State) (a : Nat) (v : Word) : (s.storeWord a v).program = s.program := rfl
@[simp] theorem State.storeWord_layout (s : State) (a : Nat) (v : Word) : (s.storeWord a v).layout = s.layout := rfl
@[simp] theorem State.storeWord_stepIndex (s : State) (a : Nat) (v : Word) : (s.storeWord a v).stepIndex = s.stepIndex := rfl
@[simp] theorem State.storeWord_outcome (s : State) (a : Nat) (v : Word) : (s.storeWord a v).outcome = s.outcome := rfl

@[simp] theorem State.set_running (s : State) (r : Reg) (v : Word) : (s.set r v).running = s.running := by cases r <;> rfl
@[simp] theorem State.set_finished (s : State) (r : Reg) (v : Word) : (s.set r v).finished = s.finished := by cases r <;> rfl
@[simp] theorem State.set_mem (s : State) (r : Reg) (v : Word) : (s.set r v).mem = s.mem := by cases r <;> rfl
@[simp] theorem State.set_program (s : State) (r : Reg) (v : Word) : (s.set r v).program = s.program := by cases r <;> rfl
@[simp] theorem State.set_layout (s : State) (r : Reg) (v : Word) : (s.set r v).layout = s.layout := by cases r <;> rfl
@[simp] theorem State.set_stepIndex (s : State) (r : Reg) (v : Word) : (s.set r v).stepIndex = s.stepIndex := by cases r <;> rfl
@[simp] theorem State.set_outcome (s : State) (r : Reg) (v : Word) : (s.set r v).outcome = s.outcome := by cases r <;> rfl

@[simp] theorem State.writeThrough_running (s : State) (r : Reg) (v : Word) : (s.writeThrough r v).running = s.running := by cases r <;> rfl
@[simp] theorem State.writeThrough_finished (s : State) (r : Reg) (v : Word) : (s.writeThrough r v).finished = s.finished := by cases r <;> rfl
@[simp] theorem State.writeThrough_mem (s : State) (r : Reg) (v : Word) : (s.writeThrough r v).mem = s.mem := by cases r <;> rfl
@[simp] theorem State.writeThrough_program (s : State) (r : Reg) (v : Word) : (s.writeThrough r v).program = s.program := by cases r <;> rfl
@[simp] theorem State.writeThrough_layout (s : State) (r : Reg) (v : Word) : (s.writeThrough r v).layout = s.layout := by cases r <;> rfl
@[simp] theorem State.writeThrough_stepIndex (s : State) (r : Reg) (v : Word) : (s.writeThrough r v).stepIndex = s.stepIndex := by cases r <;> rfl
@[simp] theorem State.writeThrough_outcome (s : State) (r : Reg) (v : Word) : (s.writeThrough r v).outcome = s.outcome := by cases r <;> rfl

/-- A set register holds the word; every other register keeps its own. -/
theorem State.get_set (s : State) (r q : Reg) (v : Word) : (s.set r v).get q = if q = r then v else s.get q := by
  cases r <;> cases q <;> rfl

/-- A write through a code leaves the word in the register and in `lst` (10_state.md R32, R33). -/
theorem State.get_writeThrough (s : State) (r q : Reg) (v : Word) :
    (s.writeThrough r v).get q = if q = r ∨ q = .lst then v else s.get q := by
  cases r <;> cases q <;> rfl

@[simp] theorem State.get_pcc (s : State) : s.get .pcc = s.pcc := rfl
@[simp] theorem State.get_acc (s : State) : s.get .acc = s.acc := rfl
@[simp] theorem State.get_bak (s : State) : s.get .bak = s.bak := rfl
@[simp] theorem State.get_stk (s : State) : s.get .stk = s.stk := rfl
@[simp] theorem State.get_lst (s : State) : s.get .lst = s.lst := rfl
@[simp] theorem State.get_fl0 (s : State) : s.get .fl0 = s.fl0 := rfl
@[simp] theorem State.get_fl1 (s : State) : s.get .fl1 = s.fl1 := rfl

@[simp] theorem State.get_succeeded (s : State) (r : Reg) : (s.succeeded).get r = s.get r := by cases r <;> rfl
@[simp] theorem State.get_tick (s : State) (r : Reg) : (s.tick).get r = s.get r := by cases r <;> rfl
@[simp] theorem State.get_ended (s : State) (r : Reg) : (s.ended).get r = s.get r := by cases r <;> rfl
@[simp] theorem State.get_halt (s : State) (r : Reg) : (s.halt).get r = s.get r := by cases r <;> rfl
@[simp] theorem State.get_idle (s : State) (r : Reg) : (s.idle).get r = s.get r := by cases r <;> rfl
@[simp] theorem State.get_stopped (s : State) (o : StepOutcome) (r : Reg) : (s.stopped o).get r = s.get r := by cases r <;> rfl
@[simp] theorem State.get_storeWord (s : State) (a : Nat) (v : Word) (r : Reg) : (s.storeWord a v).get r = s.get r := by cases r <;> rfl

end Sys2Proof.Machine
end

