-- ==== Sys2Proof/Laws/Memory.lean ====
section
/-!
SUPPORT. The Word Store's operations: a read after a write, and that every operation keeps the canonical form.
-/

namespace Sys2Proof.Machine

variable {u : Nat → Word} {a b : Nat} {v : Word} {m : Memory}

theorem Memory.read_erase_same : Memory.read u a (Memory.erase a m) = u a := by
  induction m with
  | nil => rfl
  | cons c m ih =>
    by_cases h : c.1 = a
    · simpa [Memory.erase, h] using ih
    · simpa [Memory.erase, Memory.read, h] using ih

theorem Memory.read_erase_other (h : b ≠ a) : Memory.read u b (Memory.erase a m) = Memory.read u b m := by
  induction m with
  | nil => rfl
  | cons c m ih =>
    by_cases hc : c.1 = a
    · have hb : c.1 ≠ b := fun e => h (e ▸ hc)
      simpa [Memory.erase, Memory.read, hc, hc ▸ hb] using ih
    · by_cases hb : c.1 = b
      · simp [Memory.erase, Memory.read, hb, h]
      · simpa [Memory.erase, Memory.read, hc, hb] using ih

theorem Memory.read_insert_same (h : ∀ c ∈ m, c.1 ≠ a) : Memory.read u a (Memory.insert a v m) = v := by
  induction m with
  | nil => simp [Memory.insert, Memory.read]
  | cons c m ih =>
    unfold Memory.insert
    split
    · simp [Memory.read]
    · have hc : c.1 ≠ a := h c (List.mem_cons_self ..)
      simpa [Memory.read, hc] using ih fun d hd => h d (List.mem_cons_of_mem _ hd)

theorem Memory.read_insert_other (h : b ≠ a) : Memory.read u b (Memory.insert a v m) = Memory.read u b m := by
  induction m with
  | nil => simp [Memory.insert, Memory.read, Ne.symm h]
  | cons c m ih =>
    unfold Memory.insert
    split
    · simp [Memory.read, Ne.symm h]
    · simp only [Memory.read]
      split
      · rfl
      · exact ih

theorem Memory.not_mem_erase {c : Cell} (h : c ∈ Memory.erase a m) : c.1 ≠ a := by
  simpa using (List.mem_filter.mp h).2

/-- A read of the written address gives the word written. -/
theorem Memory.read_write_same : Memory.read u a (Memory.write u a v m) = v := by
  unfold Memory.write
  split
  · rename_i h
    rw [Memory.read_erase_same, h]
  · exact Memory.read_insert_same fun _ => Memory.not_mem_erase

/-- A write leaves every other address as it was. -/
theorem Memory.read_write_other (h : b ≠ a) : Memory.read u b (Memory.write u a v m) = Memory.read u b m := by
  unfold Memory.write
  split
  · exact Memory.read_erase_other h
  · rw [Memory.read_insert_other h, Memory.read_erase_other h]

theorem Memory.mem_insert {c : Cell} : c ∈ Memory.insert a v m ↔ c = (a, v) ∨ c ∈ m := by
  induction m with
  | nil => simp [Memory.insert]
  | cons d m ih =>
    unfold Memory.insert
    split
    · simp
    · simp only [List.mem_cons, ih]
      tauto

/-- A cell of the memory after a write is the written one or an old one. -/
theorem Memory.mem_write {c : Cell} (h : c ∈ Memory.write u a v m) : c = (a, v) ∨ c ∈ m := by
  unfold Memory.write at h
  split at h
  · exact .inr (List.mem_filter.mp h).1
  · exact (Memory.mem_insert.mp h).imp_right fun h => (List.mem_filter.mp h).1

theorem Memory.wf_erase (h : Memory.wf u m) : Memory.wf u (Memory.erase a m) :=
  ⟨h.1.filter _, fun c hc => h.2 c (List.mem_filter.mp hc).1⟩

theorem Memory.wf_insert (h : Memory.wf u m) (ha : ∀ c ∈ m, c.1 ≠ a) (hv : v ≠ u a) : Memory.wf u (Memory.insert a v m) := by
  refine ⟨?_, fun c hc => ?_⟩
  · have hp := h.1
    clear h
    induction m with
    | nil => simp [Memory.insert]
    | cons d m ih =>
      have hd := List.pairwise_cons.mp hp
      unfold Memory.insert
      split
      · rename_i hlt
        refine List.pairwise_cons.mpr ⟨fun c hc => ?_, hp⟩
        rcases List.mem_cons.mp hc with rfl | hc
        · exact hlt
        · exact Nat.lt_trans hlt (hd.1 c hc)
      · rename_i hge
        refine List.pairwise_cons.mpr ⟨fun c hc => ?_, ih (fun c hc => ha c (List.mem_cons_of_mem _ hc)) hd.2⟩
        rcases Memory.mem_insert.mp hc with rfl | hc
        · have : d.1 ≠ a := ha d (List.mem_cons_self ..)
          have hle : a ≤ d.1 ∨ d.1 < a := by omega
          rcases hle with hle | hlt
          · exact absurd (Nat.lt_of_le_of_ne hle (Ne.symm this)) hge
          · exact hlt
        · exact hd.1 c hc
  · rcases Memory.mem_insert.mp hc with rfl | hc
    · exact hv
    · exact h.2 c hc

/-- A write keeps the canonical form. -/
theorem Memory.wf_write (h : Memory.wf u m) : Memory.wf u (Memory.write u a v m) := by
  unfold Memory.write
  split
  · exact Memory.wf_erase h
  · exact Memory.wf_insert (Memory.wf_erase h) (fun _ => Memory.not_mem_erase) ‹_›

/-- Nothing listed is canonical: the memory of every constructed machine. -/
theorem Memory.wf_nil : Memory.wf u [] := ⟨List.Pairwise.nil, by simp⟩

/-- Dropping cells that a new construction makes redundant leaves a memory canonical for it. -/
theorem Memory.wf_refit {u' : Nat → Word} (h : Memory.wf u m) :
    Memory.wf u' (m.filter fun c => decide (c.2 ≠ u' c.1)) :=
  ⟨h.1.filter _, fun c hc => by simpa using (List.mem_filter.mp hc).2⟩

theorem State.word_storeWord_same (s : State) (a : Nat) (v : Word) : (s.storeWord a v).word a = v :=
  Memory.read_write_same

theorem State.word_storeWord_other (s : State) (v : Word) (h : b ≠ a) : (s.storeWord a v).word b = s.word b :=
  Memory.read_write_other h

/-- A word depends on the memory, the program and the layout alone. -/
theorem State.word_congr {s t : State} (hm : t.mem = s.mem) (hp : t.program = s.program) (hl : t.layout = s.layout) (a : Nat) :
    t.word a = s.word a := by
  simp [State.word, State.unlisted, hm, hp, hl]

theorem State.region_congr {s t : State} (hl : t.layout = s.layout) (a : Nat) : t.region a = s.region a := by
  simp [State.region, hl]

/-- In an admitted table the address 0xFFFFFFFF is out of bounds (45_stack.md R184). -/
theorem regionOf_last {l : Layout} (h : l.wf = true) : regionOf l 0xFFFFFFFF = none := by
  simp only [Layout.wf, Bool.and_eq_true, Layout.lastFree, List.all_eq_true] at h
  simpa [regionOf] using h.2

end Sys2Proof.Machine
end

