-- ==== Sys2Proof/Laws/Ops.lean ====
section
/-!
SUPPORT. What each shared operation can do, said once: the cases a next state comes from.
-/

namespace Sys2Proof.Machine

variable {s t : State}

theorem complete_next : complete s = .next t ↔ t = s.succeeded := by
  simp [complete, eq_comm]

theorem stop_next {o : StepOutcome} : stop o s = .next t ↔ t = s.stopped o := by
  simp [stop, eq_comm]

/-- CheckRead stops, or goes on with the register the code names. -/
theorem checkRead_next {c : Word} {go : Reg → Result} (h : checkRead c s go = .next t) :
    (readableReg c = none ∧ t = s.stopped .invalidRegisterReference) ∨ ∃ r, readableReg c = some r ∧ go r = .next t := by
  unfold checkRead at h
  split at h
  · exact .inl ⟨‹_›, stop_next.mp h⟩
  · exact .inr ⟨_, ‹_›, h⟩

/-- CheckWrite stops, or goes on with the register the code names. -/
theorem checkWrite_next {c : Word} {go : Reg → Result} (h : checkWrite c s go = .next t) :
    (writableReg c = none ∧ t = s.stopped .invalidRegisterReference) ∨ ∃ r, writableReg c = some r ∧ go r = .next t := by
  unfold checkWrite at h
  split at h
  · exact .inl ⟨‹_›, stop_next.mp h⟩
  · exact .inr ⟨_, ‹_›, h⟩

/-- A load stops where no region covers the address or the region is not readable; else it goes on with the host's INPUT or the
word held. -/
theorem memRead_next {a : Word} {go : Word → Result} (h : memRead a s go = .next t) :
    ((∀ r, s.region a.toNat = some r → r.readable = false) ∧ t = s.stopped .invalidStackAddress) ∨
      ∃ r, s.region a.toNat = some r ∧ r.readable = true ∧
        go (if r.name = .input then Config.input a.toNat s.stepIndex else s.word a.toNat) = .next t := by
  unfold memRead at h
  split at h
  · exact .inl ⟨by simp_all, stop_next.mp h⟩
  · rename_i r hr
    split at h
    · rename_i hok
      refine .inr ⟨r, hr, hok, ?_⟩
      split at h <;> simp_all
    · exact .inl ⟨by simp_all, stop_next.mp h⟩

/-- A store stops where no region covers the address or the region is not writable; else it goes on with the one word stored. -/
theorem memWrite_next {a v : Word} {go : State → Result} (h : memWrite a v s go = .next t) :
    ((∀ r, s.region a.toNat = some r → r.writable = false) ∧ t = s.stopped .invalidStackAddress) ∨
      ∃ r, s.region a.toNat = some r ∧ r.writable = true ∧ go (s.storeWord a.toNat v) = .next t := by
  unfold memWrite at h
  split at h
  · exact .inl ⟨by simp_all, stop_next.mp h⟩
  · rename_i r hr
    split at h
    · exact .inr ⟨r, hr, ‹_›, h⟩
    · exact .inl ⟨by simp_all, stop_next.mp h⟩

/-- A counted result is a next state exactly where the result is one. -/
theorem ticked_next {r : Result} : ticked r = .next t ↔ ∃ u, r = .next u ∧ t = u.tick := by
  cases r <;> simp [ticked, eq_comm]

/-- The fetches find the end exactly when `pcc` is no index of the program (40_cycle.md R101). -/
theorem window_eq_nil : s.window = [] ↔ s.program.length ≤ s.pcc.toNat := by
  simp [State.window]

/-- What a step can do: stay halted, end the program, stop on a decode fault, or run the decoded instruction. -/
theorem step_next (h : step s = .next t) :
    (s.running = false ∧ t = s.idle) ∨
      (s.running = true ∧
        ((fetch s = .ended ∧ t = s.ended.tick) ∨
          (∃ n, fetch s = .bad n ∧ t = ((s.advance n).stopped .decodeFault).tick) ∨
            ∃ i u, fetch s = .instr i ∧ exec i (s.advance (instrWords i)) = .next u ∧ t = u.tick)) := by
  unfold step at h
  split at h
  · rename_i hr
    refine .inr ⟨hr, ?_⟩
    split at h
    · obtain ⟨u, hu, rfl⟩ := ticked_next.mp h
      cases hu
      exact .inl ⟨‹_›, rfl⟩
    · obtain ⟨u, hu, rfl⟩ := ticked_next.mp h
      exact .inr (.inl ⟨_, ‹_›, by rw [stop_next.mp hu]⟩)
    · obtain ⟨u, hu, rfl⟩ := ticked_next.mp h
      exact .inr (.inr ⟨_, u, ‹_›, hu, rfl⟩)
  · cases h
    exact .inl ⟨by simp_all, rfl⟩

end Sys2Proof.Machine
end

