-- ==== Sys2Proof/Laws/PerInstr.lean ====
section
/-!
SUPPORT. Families of per-instruction statements. EncodeWords: an instruction's words are its opcode word and as many operand words
as the opcode's format has (30_encoding.md R87).
-/

namespace Sys2Proof.Laws.EncodeWords

/-- The encoding's length is the one its opcode word alone decides. -/
def Statement (i : Instr) : Prop :=
  ∃ op ws row, encode i = op :: ws ∧ opcodeRow op.toNat = some row ∧ ws.length = operandCount row

theorem nop : Statement .nop := ⟨_, _, _, rfl, rfl, rfl⟩
theorem zro (rc : Word) : Statement (.zro rc) := ⟨_, _, _, rfl, rfl, rfl⟩
theorem ldi (imm rc : Word) : Statement (.ldi imm rc) := ⟨_, _, _, rfl, rfl, rfl⟩
theorem mov (rs rd : Word) : Statement (.mov rs rd) := ⟨_, _, _, rfl, rfl, rfl⟩
theorem addi (imm : Word) : Statement (.addi imm) := ⟨_, _, _, rfl, rfl, rfl⟩
theorem subi (imm : Word) : Statement (.subi imm) := ⟨_, _, _, rfl, rfl, rfl⟩
theorem addr (rc : Word) : Statement (.addr rc) := ⟨_, _, _, rfl, rfl, rfl⟩
theorem subr (rc : Word) : Statement (.subr rc) := ⟨_, _, _, rfl, rfl, rfl⟩
theorem swp : Statement .swp := ⟨_, _, _, rfl, rfl, rfl⟩
theorem sav : Statement .sav := ⟨_, _, _, rfl, rfl, rfl⟩
theorem jmp (tgt : Word) : Statement (.jmp tgt) := ⟨_, _, _, rfl, rfl, rfl⟩
theorem jez (tgt : Word) : Statement (.jez tgt) := ⟨_, _, _, rfl, rfl, rfl⟩
theorem jnz (tgt : Word) : Statement (.jnz tgt) := ⟨_, _, _, rfl, rfl, rfl⟩
theorem jgz (tgt : Word) : Statement (.jgz tgt) := ⟨_, _, _, rfl, rfl, rfl⟩
theorem jlz (tgt : Word) : Statement (.jlz tgt) := ⟨_, _, _, rfl, rfl, rfl⟩
theorem ceqi (imm : Word) : Statement (.ceqi imm) := ⟨_, _, _, rfl, rfl, rfl⟩
theorem cnei (imm : Word) : Statement (.cnei imm) := ⟨_, _, _, rfl, rfl, rfl⟩
theorem cgti (imm : Word) : Statement (.cgti imm) := ⟨_, _, _, rfl, rfl, rfl⟩
theorem clti (imm : Word) : Statement (.clti imm) := ⟨_, _, _, rfl, rfl, rfl⟩
theorem ceqr (rc : Word) : Statement (.ceqr rc) := ⟨_, _, _, rfl, rfl, rfl⟩
theorem cner (rc : Word) : Statement (.cner rc) := ⟨_, _, _, rfl, rfl, rfl⟩
theorem cgtr (rc : Word) : Statement (.cgtr rc) := ⟨_, _, _, rfl, rfl, rfl⟩
theorem cltr (rc : Word) : Statement (.cltr rc) := ⟨_, _, _, rfl, rfl, rfl⟩
theorem sta : Statement .sta := ⟨_, _, _, rfl, rfl, rfl⟩
theorem str (rc : Word) : Statement (.str rc) := ⟨_, _, _, rfl, rfl, rfl⟩
theorem lds (rc : Word) : Statement (.lds rc) := ⟨_, _, _, rfl, rfl, rfl⟩
theorem inc : Statement .inc := ⟨_, _, _, rfl, rfl, rfl⟩
theorem dec : Statement .dec := ⟨_, _, _, rfl, rfl, rfl⟩
theorem psh : Statement .psh := ⟨_, _, _, rfl, rfl, rfl⟩
theorem cal (tgt : Word) : Statement (.cal tgt) := ⟨_, _, _, rfl, rfl, rfl⟩
theorem ret : Statement .ret := ⟨_, _, _, rfl, rfl, rfl⟩
theorem hlt : Statement .hlt := ⟨_, _, _, rfl, rfl, rfl⟩

end Sys2Proof.Laws.EncodeWords
end

