-- ==== Sys2Proof/Laws/Safety.lean ====
section
/-!
SUPPORT. The claims' terms, each in the form a proof or a test uses it.
-/

namespace Sys2Proof.Machine

/-- s(w) by its definition is the integer the compares use (00_scope.md R8). -/
theorem signed_eq_toInt (w : Word) : signed w = w.toInt := by
  rw [BitVec.toInt_eq_toNat_cond]
  unfold signed
  split <;> split <;> omega

theorem storable_iff (s : State) (a : Nat) : s.Storable a ↔ (s.region a).any (fun r => r.writable) = true := by
  simp [State.Storable, Option.any_eq_true]

theorem loadable_iff (s : State) (a : Nat) : s.Loadable a ↔ (s.region a).any (fun r => r.readable) = true := by
  simp [State.Loadable, Option.any_eq_true]

theorem inInput_iff (s : State) (a : Nat) : s.InInput a ↔ (s.region a).any (fun r => decide (r.name = .input)) = true := by
  simp [State.InInput, Option.any_eq_true]

/-- The fault operation leaves the state the claims name. -/
theorem stop_eq (o : StepOutcome) (s : State) : stop o s = .next (Stopped o s) := rfl

/-- A run of one more step begins with that step. -/
theorem run_succ_next (M : Host.Core) (n : Nat) (s t : M.State) (h : M.step s = .next t) : M.run (n + 1) s = M.run n t := by
  simp only [Host.Core.run, h]

end Sys2Proof.Machine
end

