-- ==== Sys2Proof/Tests/Slice0.lean ====
section
/-!
SUPPORT. Small tests, each about one step, with expected results from spec/95_test_vectors.md or the rule named; and for each
statement with hypotheses a state and operands that meet them, at the ends of each clause's range.
-/

namespace Sys2Proof.Tests

open Sys2Proof.Machine

/-- The state with `pcc` at address `a` of a program that has the words there and two more words after them. -/
def placed (a : Nat) (words : List Word) (s : State) : State :=
  { s with program := List.replicate a 0 ++ words ++ [0, 0], pcc := BitVec.ofNat 32 a }

/-- The state one step on. -/
def after (s : State) : Option State :=
  match step s with
  | .next t => some t
  | _ => none

/-- A legal layout with a small program region. -/
def smallLayout : Layout :=
  ⟨[⟨.program, 0, 4, true, false⟩, ⟨.input, 4, 4, true, false⟩, ⟨.ram, 8, 4, true, true⟩], 12, 4⟩

/-- The reset state with another stack pointer. -/
def atStk (a : Word) : State := { State.reset with stk := a }

/-- 95_test_vectors.md V1 -/
theorem test_nop :
    (after (placed 7 [0x0] { State.reset with acc := 3 })).map (fun t => (t.pcc, t.acc, t.lst, t.outcome)) = some (8, 3, 0, .success) := by decide

/-- 95_test_vectors.md V2 -/
theorem test_zro :
    (after (placed 0 [0x1, 0x1] { State.reset with acc := 9, lst := 5 })).map (fun t => (t.acc, t.lst, t.running)) = some (0, 0, true) := by decide

/-- 95_test_vectors.md V5 -/
theorem test_zro_lst :
    (after (placed 3 [0x1, 0x4] { State.reset with lst := 3 })).map (fun t => (t.pcc, t.running, t.finished, t.lst, t.outcome)) = some (5, false, false, 3, .invalidRegisterReference) := by decide

/-- 95_test_vectors.md V9 -/
theorem test_ldi_pcc :
    (after (placed 0 [0x2, 0x9, 0x0] State.reset)).map (fun t => (t.pcc, t.lst)) = some (9, 9) := by decide

/-- 95_test_vectors.md V11 -/
theorem test_ldi_bad_code :
    (after (placed 0 [0x2, 0x1, 0x80000000] State.reset)).map (fun t => (t.pcc, t.running, t.outcome)) = some (3, false, .invalidRegisterReference) := by decide

/-- 95_test_vectors.md V13 -/
theorem test_mov_from_pcc :
    (after (placed 5 [0x3, 0x0, 0x1] State.reset)).map (fun t => (t.acc, t.lst, t.pcc)) = some (8, 8, 8) := by decide

/-- 95_test_vectors.md V18 -/
theorem test_mov_both_bad :
    (after (placed 0 [0x3, 0x7, 0x4] State.reset)).map (fun t => (t.pcc, t.running, t.outcome)) = some (3, false, .invalidRegisterReference) := by decide

/-- 95_test_vectors.md V22 -/
theorem test_addi_wraps :
    (after (placed 0 [0x4, 0x1] { State.reset with acc := 0x7FFFFFFF })).map (fun t => (t.acc, t.lst, t.fl0)) = some (0x80000000, 0x80000000, 0) := by decide

/-- 95_test_vectors.md V26 -/
theorem test_subi_wraps :
    (after (placed 0 [0x5, 0x1] State.reset)).map (fun t => (t.acc, t.lst)) = some (0xFFFFFFFF, 0xFFFFFFFF) := by decide

/-- 95_test_vectors.md V30 -/
theorem test_addr_pcc :
    (after (placed 4 [0x6, 0x0] { State.reset with acc := 1 })).map (fun t => (t.acc, t.lst, t.pcc)) = some (7, 7, 6) := by decide

/-- 95_test_vectors.md V32 -/
theorem test_addr_bad_code :
    (after (placed 0 [0x6, 0x9] { State.reset with acc := 5 })).map (fun t => (t.pcc, t.running, t.acc, t.outcome)) = some (2, false, 5, .invalidRegisterReference) := by decide

/-- 95_test_vectors.md V33 -/
theorem test_subr :
    (after (placed 0 [0x7, 0x2] { State.reset with acc := 5, bak := 10 })).map (fun t => (t.acc, t.lst)) = some (0xFFFFFFFB, 0xFFFFFFFB) := by decide

/-- 95_test_vectors.md V35 -/
theorem test_swp :
    (after (placed 0 [0x8] { State.reset with acc := 1, bak := 2, lst := 9 })).map (fun t => (t.acc, t.bak, t.lst)) = some (2, 1, 9) := by decide

/-- 95_test_vectors.md V36 -/
theorem test_sav :
    (after (placed 0 [0x9] { State.reset with acc := 4, bak := 9 })).map (fun t => (t.bak, t.acc, t.lst)) = some (4, 4, 0) := by decide

/-- 95_test_vectors.md V37 -/
theorem test_jmp :
    (after (placed 2 [0xA, 0x0] { State.reset with lst := 6 })).map (fun t => (t.pcc, t.lst)) = some (0, 6) := by decide

/-- 95_test_vectors.md V39 -/
theorem test_jez_taken :
    (after (placed 3 [0xB, 0x9] State.reset)).map (fun t => (t.pcc)) = some (9) := by decide

/-- 95_test_vectors.md V50 -/
theorem test_jez_ignores_flag :
    (after (placed 3 [0xB, 0x9] { State.reset with fl0 := 1, acc := 5 })).map (fun t => (t.pcc)) = some (5) := by decide

/-- 95_test_vectors.md V41 -/
theorem test_jnz_taken :
    (after (placed 3 [0xC, 0x4] { State.reset with acc := 0xFFFFFFFF })).map (fun t => (t.pcc)) = some (4) := by decide

/-- 95_test_vectors.md V42 -/
theorem test_jnz_zero :
    (after (placed 3 [0xC, 0x4] State.reset)).map (fun t => (t.pcc)) = some (5) := by decide

/-- 95_test_vectors.md V44 -/
theorem test_jgz_max :
    (after (placed 3 [0xD, 0x6] { State.reset with acc := 0x7FFFFFFF })).map (fun t => (t.pcc)) = some (6) := by decide

/-- 95_test_vectors.md V45 -/
theorem test_jgz_negative :
    (after (placed 3 [0xD, 0x6] { State.reset with acc := 0x80000000 })).map (fun t => (t.pcc)) = some (5) := by decide

/-- 95_test_vectors.md V48 -/
theorem test_jlz_min :
    (after (placed 3 [0xE, 0x6] { State.reset with acc := 0x80000000 })).map (fun t => (t.pcc)) = some (6) := by decide

/-- 95_test_vectors.md V49 -/
theorem test_jlz_zero :
    (after (placed 3 [0xE, 0x6] State.reset)).map (fun t => (t.pcc)) = some (5) := by decide

/-- 95_test_vectors.md V52 -/
theorem test_ceqi :
    (after (placed 0 [0xF, 0x6] { State.reset with acc := 5, fl0 := 1, lst := 7 })).map (fun t => (t.fl0, t.lst)) = some (0, 7) := by decide

/-- 95_test_vectors.md V54 -/
theorem test_cnei :
    (after (placed 0 [0x10, 0x0] { State.reset with acc := 0xFFFFFFFF })).map (fun t => (t.fl0)) = some (1) := by decide

/-- 95_test_vectors.md V58 -/
theorem test_cgti_signed :
    (after (placed 0 [0x11, 0xFFFFFFFF] State.reset)).map (fun t => (t.fl0)) = some (1) := by decide

/-- 95_test_vectors.md V61 -/
theorem test_clti_signed :
    (after (placed 0 [0x12, 0x7FFFFFFF] { State.reset with acc := 0x80000000 })).map (fun t => (t.fl0)) = some (1) := by decide

/-- 95_test_vectors.md V62 -/
theorem test_ceqr :
    (after (placed 0 [0x13, 0x2] { State.reset with acc := 3, bak := 3 })).map (fun t => (t.fl0)) = some (1) := by decide

/-- 95_test_vectors.md V69 -/
theorem test_ceqr_bad_code :
    (after (placed 0 [0x13, 0x7] { State.reset with acc := 2, fl0 := 1 })).map (fun t => (t.fl0, t.running, t.pcc, t.outcome)) = some (1, false, 2, .invalidRegisterReference) := by decide

/-- 95_test_vectors.md V64 -/
theorem test_cner :
    (after (placed 0 [0x14, 0x2] { State.reset with acc := 3, bak := 4 })).map (fun t => (t.fl0)) = some (1) := by decide

/-- 95_test_vectors.md V66 -/
theorem test_cgtr_signed :
    (after (placed 0 [0x15, 0x2] { State.reset with acc := 0x7FFFFFFF, bak := 0x80000000 })).map (fun t => (t.fl0)) = some (1) := by decide

/-- 95_test_vectors.md V68 -/
theorem test_cltr_old_flag :
    (after (placed 0 [0x16, 0x5] { State.reset with acc := 2, fl0 := 1 })).map (fun t => (t.fl0)) = some (0) := by decide

/-- 95_test_vectors.md V72 -/
theorem test_sta_last_word :
    (after (placed 0 [0x17] { State.reset with acc := 42, stk := 0xFFF, lst := 3 })).map (fun t => (t.word 0xFFF, t.acc, t.stk, t.lst)) = some (42, 0, 0xFFF, 3) := by decide

/-- 95_test_vectors.md V73 -/
theorem test_sta_input_region :
    (after (placed 0 [0x17] { State.reset with acc := 42, stk := 0x400 })).map (fun t => (t.running, t.acc, t.mem, t.outcome)) = some (false, 42, [], .invalidStackAddress) := by decide

/-- 95_test_vectors.md V78 -/
theorem test_str_pcc :
    (after (placed 8 [0x18, 0x0] { State.reset with stk := 0x500 })).map (fun t => (t.word 0x500)) = some (10) := by decide

/-- 95_test_vectors.md V80 -/
theorem test_str_register_check_first :
    (after (placed 0 [0x18, 0x7] { State.reset with stk := 0x400 })).map (fun t => (t.running, t.mem, t.outcome)) = some (false, [], .invalidRegisterReference) := by decide

/-- 95_test_vectors.md V88 -/
theorem test_lds_stk :
    (after (placed 0 [0x19, 0x3] { State.reset with stk := 0x500, mem := [(0x500, 0x600)] })).map (fun t => (t.stk, t.lst)) = some (0x600, 0x600) := by decide

/-- 95_test_vectors.md V84 and V120: the word is the host's, whatever it is -/
theorem test_lds_input :
    ∀ u, after (placed 0 [0x19, 0x1] { State.reset with stk := 0x400, stepIndex := 1 }) = some u →
      u.acc = Config.input 0x400 1 ∧ u.lst = Config.input 0x400 1 := by
  intro u h
  cases h
  exact ⟨rfl, rfl⟩

/-- 95_test_vectors.md V90 -/
theorem test_inc :
    (after (placed 0 [0x1A] { State.reset with stk := 0x5FF, lst := 1 })).map (fun t => (t.stk, t.lst)) = some (0x600, 1) := by decide

/-- 95_test_vectors.md V91 -/
theorem test_inc_wraps :
    (after (placed 0 [0x1A] { State.reset with stk := 0xFFFFFFFF })).map (fun t => (t.stk)) = some (0) := by decide

/-- 95_test_vectors.md V92 -/
theorem test_dec_wraps :
    (after (placed 0 [0x1B] State.reset)).map (fun t => (t.stk, t.lst)) = some (0xFFFFFFFF, 0) := by decide

/-- 95_test_vectors.md V96 -/
theorem test_psh_last_word :
    (after (placed 0 [0x1C] { State.reset with acc := 9, stk := 0xFFF })).map (fun t => (t.word 0xFFF, t.acc, t.stk, t.lst)) = some (9, 0, 0x1000, 0) := by decide

/-- 95_test_vectors.md V97 -/
theorem test_psh_out_of_bounds :
    (after (placed 0 [0x1C] { State.reset with acc := 9, stk := 0x1000 })).map (fun t => (t.running, t.acc, t.stk, t.outcome)) = some (false, 9, 0x1000, .invalidStackAddress) := by decide

/-- 95_test_vectors.md V100 -/
theorem test_cal_overwrites :
    (after (placed 4 [0x1D, 0xA] { State.reset with fl1 := 0x77, lst := 2 })).map (fun t => (t.fl1, t.pcc, t.lst)) = some (6, 10, 2) := by decide

/-- 95_test_vectors.md V103 (here L = A + 3) -/
theorem test_ret_last_index :
    (after (placed 3 [0x1E] { State.reset with fl1 := 5 })).map (fun t => (t.pcc, t.fl1)) = some (5, 5) := by decide

/-- 95_test_vectors.md V104 (here L = A + 3) -/
theorem test_ret_bound :
    (after (placed 3 [0x1E] { State.reset with fl1 := 6 })).map (fun t => (t.pcc, t.running, t.finished, t.outcome)) = some (4, false, false, .failure) := by decide

/-- 95_test_vectors.md V107 -/
theorem test_hlt :
    (after (placed 3 [0x1F] State.reset)).map (fun t => (t.pcc, t.running, t.finished, t.outcome)) = some (4, false, true, .success) := by decide

/-- 95_test_vectors.md V111 -/
theorem test_whole_opcode_word :
    (after { State.reset with program := [0x101] }).map (fun t => (t.pcc, t.running, t.finished, t.outcome)) = some (1, false, false, .decodeFault) := by decide

/-- 95_test_vectors.md V112 -/
theorem test_truncated_ldi :
    (after { State.reset with program := [0x2, 0x5] }).map (fun t => (t.pcc, t.running, t.acc, t.lst, t.outcome)) = some (2, false, 0, 0, .decodeFault) := by decide

/-- 95_test_vectors.md V113 -/
theorem test_truncated_addi :
    (after { State.reset with program := [0x4] }).map (fun t => (t.pcc, t.running, t.outcome)) = some (1, false, .decodeFault) := by decide

/-- 95_test_vectors.md V114, step 2 -/
theorem test_normal_end :
    (after { State.reset with program := [0x8], pcc := 1 }).map (fun t => (t.pcc, t.running, t.finished, t.outcome)) = some (1, false, true, .success) := by decide

/-- 95_test_vectors.md V115 -/
theorem test_empty_program :
    (after { State.reset with program := [] }).map (fun t => (t.pcc, t.running, t.finished, t.outcome)) = some (0, false, true, .success) := by decide

/-- 95_test_vectors.md V116, step 2 -/
theorem test_halted_step :
    (after { State.reset with program := [0x20, 0x0], pcc := 1, running := false, stepIndex := 1, outcome := .decodeFault }).map (fun t => (t.pcc, t.running, t.finished, t.outcome, t.stepIndex)) = some (1, false, false, .success, 1) := by decide

/-- 95_test_vectors.md V83 -/
theorem test_load_program_copy :
    (after { State.reset with program := [0x19, 0x1, 0x2], stk := 2 }).map (fun t => (t.acc, t.lst)) = some (0x2, 0x2) := by decide

/-- 60_exceptions.md R241, with PROG_CAP 4 -/
theorem test_create_too_long :
    (match create smallLayout [0, 0, 0, 0, 0] with | .fault f => some f | _ => none) = some .programTooLarge := by decide

/-- 20_memory.md R53 meets R51 and R54 -/
theorem test_reference_layout :
    Layout.reference.wf = true := by decide

/-- 20_memory.md R54: input, high scratch, low scratch is a legal table -/
theorem test_compact_layout :
    (Layout.mk [⟨.input, 0, 4, true, false⟩, ⟨.other 0, 8, 4, true, true⟩, ⟨.other 1, 4, 4, true, true⟩] 12 64).wf = true := by decide

/-- R51: regions do not overlap -/
theorem test_ill_formed_overlap :
    (Layout.mk [⟨.input, 0, 4, true, false⟩, ⟨.stack, 3, 4, true, true⟩] 4096 4).wf = false ∧ (Layout.mk [⟨.input, 0, 4, true, false⟩, ⟨.stack, 3, 4, true, true⟩] 4096 4).disjoint = false := by decide

/-- R51: covered addresses are below MEM_SIZE -/
theorem test_ill_formed_past_end :
    (Layout.mk [⟨.input, 0, 4, true, false⟩, ⟨.stack, 4, 4, true, true⟩] 7 4).wf = false ∧ (Layout.mk [⟨.input, 0, 4, true, false⟩, ⟨.stack, 4, 4, true, true⟩] 7 4).within = false := by decide

/-- a name names one region -/
theorem test_ill_formed_same_name :
    (Layout.mk [⟨.input, 0, 4, true, false⟩, ⟨.stack, 4, 4, true, true⟩, ⟨.stack, 8, 4, true, true⟩] 4096 4).wf = false ∧ (Layout.mk [⟨.input, 0, 4, true, false⟩, ⟨.stack, 4, 4, true, true⟩, ⟨.stack, 8, 4, true, true⟩] 4096 4).named = false := by decide

/-- R54: an input-only region -/
theorem test_ill_formed_no_input :
    (Layout.mk [⟨.stack, 4, 4, true, true⟩] 4096 4).wf = false ∧ (Layout.mk [⟨.stack, 4, 4, true, true⟩] 4096 4).inputOk = false := by decide

/-- R54: the input-only region is not writable -/
theorem test_ill_formed_writable_input :
    (Layout.mk [⟨.input, 0, 4, true, true⟩, ⟨.stack, 4, 4, true, true⟩] 4096 4).wf = false ∧ (Layout.mk [⟨.input, 0, 4, true, true⟩, ⟨.stack, 4, 4, true, true⟩] 4096 4).inputOk = false := by decide

/-- R54: a scratch region -/
theorem test_ill_formed_no_scratch :
    (Layout.mk [⟨.input, 0, 4, true, false⟩, ⟨.program, 8, 4, true, false⟩] 4096 4).wf = false ∧ (Layout.mk [⟨.input, 0, 4, true, false⟩, ⟨.program, 8, 4, true, false⟩] 4096 4).scratchOk = false := by decide

/-- R7: PROG_CAP is the program region's capacity -/
theorem test_ill_formed_capacity :
    (Layout.mk [⟨.input, 0, 4, true, false⟩, ⟨.stack, 4, 4, true, true⟩, ⟨.program, 8, 4, true, false⟩] 4096 5).wf = false ∧ (Layout.mk [⟨.input, 0, 4, true, false⟩, ⟨.stack, 4, 4, true, true⟩, ⟨.program, 8, 4, true, false⟩] 4096 5).capOk = false := by decide

/-- D21: PROG_CAP is the program region's length, no less -/
theorem test_ill_formed_capacity_below :
    (Layout.mk [⟨.input, 0, 4, true, false⟩, ⟨.stack, 4, 4, true, true⟩, ⟨.program, 8, 4, true, false⟩] 4096 3).wf = false ∧ (Layout.mk [⟨.input, 0, 4, true, false⟩, ⟨.stack, 4, 4, true, true⟩, ⟨.program, 8, 4, true, false⟩] 4096 3).capOk = false := by decide

/-- R51: a region of length 0 covers no address, so none past MEM_SIZE (notes/assumptions/18.md) -/
theorem test_empty_region :
    (Layout.mk [⟨.input, 9, 0, true, false⟩, ⟨.stack, 4, 4, true, true⟩] 8 4).wf = true := by decide

/-- 45_stack.md R184: 0xFFFFFFFF is out of bounds, so no table covers it; one that ends before it is legal -/
theorem test_ill_formed_last_address :
    (Layout.mk [⟨.input, 0, 4, true, false⟩, ⟨.ram, 0xFFFFFFF0, 16, true, true⟩] 0x100000000 4).wf = false ∧ (Layout.mk [⟨.input, 0, 4, true, false⟩, ⟨.ram, 0xFFFFFFF0, 16, true, true⟩] 0x100000000 4).lastFree = false ∧
      (Layout.mk [⟨.input, 0, 4, true, false⟩, ⟨.ram, 0xFFFFFFF0, 15, true, true⟩] 0x100000000 4).wf = true := by decide

/-- R54 asks for one scratch region; a read-only region beside it is admitted (notes/assumptions/21.md) -/
theorem test_read_only_ram :
    (Layout.mk [⟨.input, 0, 4, true, false⟩, ⟨.stack, 4, 4, true, true⟩, ⟨.ram, 8, 4, true, false⟩] 12 4).wf = true := by decide

/-- 70_reset_and_hazards.md R262 -/
theorem test_program_does_not_fit :
    smallLayout.fits [0, 0, 0, 0, 0] = false ∧ smallLayout.fits [0, 0, 0, 0] = true := by decide

/-- 10_state.md R31 -/
theorem test_codes_not_permitted :
    (Instr.zro 4).codesPermitted = false ∧ (Instr.ldi 0 7).codesPermitted = false ∧ (Instr.mov 7 1).codesPermitted = false ∧
      (Instr.lds 4).codesPermitted = false ∧ (Instr.mov 4 6).codesPermitted = true := by decide

/-- 60_exceptions.md R221 -/
theorem test_outcome_codes :
    [StepOutcome.success, .invalidRegisterReference, .invalidStackAddress, .failure, .decodeFault].map outcomeCode = [0, 1, 2, 3, 4] := by decide

/-- 20_memory.md R61, 60_exceptions.md R246 -/
theorem test_big_endian_word :
    wordOfBytes 0x01 0x02 0x03 0x04 = 0x01020304 ∧ programOfBytes [0, 0, 0] = none := by decide

/-- 60_exceptions.md R243 -/
theorem test_read_mem :
    readMem 0x0FFF 2 State.reset = .error .readMemOutOfBounds ∧ readMem 0x0FFE 2 { State.reset with mem := [(0xFFF, 7)] } = .ok [0, 7] := ⟨rfl, rfl⟩

/-- the canonical form of the memory -/
theorem test_write_default_unlists :
    (State.storeWord { State.reset with mem := [(0x500, 1), (0x502, 3)] } 0x501 2).mem = [(0x500, 1), (0x501, 2), (0x502, 3)] ∧
      (State.storeWord { State.reset with mem := [(0x500, 1)] } 0x500 0).mem = [] := by decide

/-- 30_encoding.md R81, R86: words written out from the table -/
theorem test_decode_data :
    decode [0x0] = .ok (.nop, []) ∧
      decode [0x1, 0x6] = .ok (.zro 6, []) ∧
      decode [0x2, 0x5, 0x1] = .ok (.ldi 5 1, []) ∧
      decode [0x3, 0x1, 0x2] = .ok (.mov 1 2, []) := by decide

/-- 30_encoding.md R81, R86: words written out from the table -/
theorem test_decode_accumulator :
    decode [0x4, 0xFFFFFFFF] = .ok (.addi 0xFFFFFFFF, []) ∧
      decode [0x5, 0x7] = .ok (.subi 7, []) ∧
      decode [0x6, 0x2] = .ok (.addr 2, []) ∧
      decode [0x7, 0x2] = .ok (.subr 2, []) ∧
      decode [0x8] = .ok (.swp, []) ∧
      decode [0x9] = .ok (.sav, []) := by decide

/-- 30_encoding.md R81, R86: words written out from the table -/
theorem test_decode_jump :
    decode [0xA, 0x4] = .ok (.jmp 4, []) ∧
      decode [0xB, 0x9] = .ok (.jez 9, []) ∧
      decode [0xC, 0x4] = .ok (.jnz 4, []) ∧
      decode [0xD, 0x6] = .ok (.jgz 6, []) ∧
      decode [0xE, 0x6] = .ok (.jlz 6, []) := by decide

/-- 30_encoding.md R81, R86: words written out from the table -/
theorem test_decode_compare :
    decode [0xF, 0x5] = .ok (.ceqi 5, []) ∧
      decode [0x10, 0x5] = .ok (.cnei 5, []) ∧
      decode [0x11, 0x3] = .ok (.cgti 3, []) ∧
      decode [0x12, 0x3] = .ok (.clti 3, []) ∧
      decode [0x13, 0x2] = .ok (.ceqr 2, []) ∧
      decode [0x14, 0x2] = .ok (.cner 2, []) ∧
      decode [0x15, 0x2] = .ok (.cgtr 2, []) ∧
      decode [0x16, 0x2] = .ok (.cltr 2, []) := by decide

/-- 30_encoding.md R81, R86: words written out from the table -/
theorem test_decode_stack :
    decode [0x17] = .ok (.sta, []) ∧
      decode [0x18, 0x2] = .ok (.str 2, []) ∧
      decode [0x19, 0x3] = .ok (.lds 3, []) ∧
      decode [0x1A] = .ok (.inc, []) ∧
      decode [0x1B] = .ok (.dec, []) ∧
      decode [0x1C] = .ok (.psh, []) := by decide

/-- 30_encoding.md R81, R86: words written out from the table -/
theorem test_decode_call :
    decode [0x1D, 0xA] = .ok (.cal 10, []) ∧
      decode [0x1E] = .ok (.ret, []) ∧
      decode [0x1F] = .ok (.hlt, []) := by decide

/-- 30_encoding.md R88, R90 -/
theorem test_decode_refuses :
    decode [] = .error .noOpcode ∧ decode [0x20] = .error (.illegalOpcode 0x20) ∧ decode [0x3, 0x1] = .error (.truncated 2) ∧
      decode [0xA] = .error (.truncated 1) := by decide

/-- the words of an opcode-table number -/
theorem test_table_word :
    decodeTableWord 32 0x18 = some (.str 0) ∧ decodeTableWord 96 (2 + 5 * 2 ^ 32 + 1 * 2 ^ 64) = some (.ldi 5 1) ∧
      decodeTableWord 32 0x20 = none := by decide

/-- the placed word is the next instruction -/
theorem test_fetch_word_runs :
    (after (State.reset.withFetchWord 64 (4 + 3 * 2 ^ 32))).map (fun t => (t.acc, t.pcc)) = some (3, 2) := by decide

/-! ### Witnesses of the hypotheses of the statements -/

theorem test_witness_IllegalOpcodeStops :
    ∃ s : State, s.running = true ∧ s.program[s.pcc.toNat]? = some 0x20 ∧ 0x20 ≤ (0x20 : Word).toNat := ⟨{ State.reset with program := [0x20] }, by decide⟩

theorem test_witness_TruncatedInstructionStops :
    ∃ s : State, s.running = true ∧ s.program[s.pcc.toNat]? = some 0x03 ∧ (0x03 : Word).toNat < 0x20 ∧
      s.program.length - s.pcc.toNat < opcodeWords (0x03 : Word).toNat := ⟨{ State.reset with program := [0x03, 0x01] }, by decide⟩

theorem test_witness_NormalTermination :
    State.reset.running = true ∧ State.reset.program.length ≤ State.reset.pcc.toNat := by decide

theorem test_witness_StepRunsInstruction :
    ∃ s : State, s.running = true ∧ decode (s.program.drop s.pcc.toNat) = .ok (.hlt, []) := ⟨{ State.reset with program := [0, 0x1F], pcc := 1 }, by decide⟩

theorem test_witness_halted :
    ∃ s : State, s.running = false := ⟨State.reset.ended, rfl⟩

theorem test_witness_StepIsTheCycle :
    State.reset.program.length < 2 ^ 32 := by decide

theorem test_witness_step_answers :
    ∃ s t : State, s.running = true ∧ step s = .next t ∧ ∀ i rest, decode (s.program.drop s.pcc.toNat) ≠ .ok (i, rest) := 
  ⟨State.reset, State.reset.ended.tick, rfl, rfl, by simp [State.reset, State.constructed, decode]⟩

theorem test_witness_register_codes :
    regOfCode 0 = some .pcc ∧ regOfCode 3 = some .stk ∧ regOfCode 4 = some .lst ∧ regOfCode 5 = some .fl0 ∧
      regOfCode 6 = some .fl1 ∧ (4 : Word).toNat = 4 ∧ 7 ≤ (7 : Word).toNat ∧ 7 ≤ (0xFFFFFFFF : Word).toNat := by decide

theorem test_witness_LastWrittenRule :
    ∃ s t : State, exec (.zro 6) s = .next t ∧ t.outcome = .success := ⟨State.reset, _, rfl, rfl⟩

theorem test_witness_FlagWriters :
    ∃ s t : State, exec (.ldi 7 5) s = .next t ∧ t.fl0 ≠ s.fl0 := ⟨State.reset, _, rfl, by decide⟩

theorem test_witness_FlagWriters_compare :
    ∃ s t : State, exec (.ceqi 0) s = .next t ∧ t.fl0 ≠ s.fl0 := ⟨State.reset, _, rfl, by decide⟩

theorem test_witness_AuditAndFlagReadByCodeOnly :
    (∀ c ∈ (Instr.mov 3 5).codesRead, c.toNat ≠ 4 ∧ c.toNat ≠ 5) ∧ ∃ t, exec (.mov 3 5) State.reset = .next t :=
  ⟨by simp [Instr.codesRead], _, rfl⟩

theorem test_witness_RegisterWriters :
    ∃ s t : State, exec (.cal 9) s = .next t ∧ t.fl1 ≠ s.fl1 := ⟨{ State.reset with pcc := 2 }, _, rfl, by decide⟩

theorem test_witness_RegisterWriters_bak_stk :
    (∃ s t : State, exec .sav s = .next t ∧ t.bak ≠ s.bak) ∧ ∃ s t : State, exec .dec s = .next t ∧ t.stk ≠ s.stk := 
  ⟨⟨{ State.reset with acc := 2 }, _, rfl, by decide⟩, State.reset, _, rfl, by decide⟩

theorem test_witness_storable :
    (atStk 0x500).Storable 0x500 ∧ (atStk 0xFFF).Storable 0xFFF := by
  simp only [storable_iff]
  decide

theorem test_witness_not_storable :
    ¬ (atStk 0x4FF).Storable 0x4FF ∧ ¬ (atStk 0x1000).Storable 0x1000 ∧ ¬ (atStk 0xFFFFFFFF).Storable 0xFFFFFFFF := by
  simp only [storable_iff]
  decide

theorem test_witness_loadable :
    (atStk 0x3FF).Loadable 0x3FF ∧ ¬ (atStk 0x3FF).InInput 0x3FF ∧ (atStk 0x500).Loadable 0x500 ∧ ¬ (atStk 0x500).InInput 0x500 := by
  simp only [loadable_iff, inInput_iff]
  decide

theorem test_witness_loadable_input :
    (atStk 0x400).Loadable 0x400 ∧ (atStk 0x400).InInput 0x400 ∧ (atStk 0x4FF).Loadable 0x4FF ∧ (atStk 0x4FF).InInput 0x4FF := by
  simp only [loadable_iff, inInput_iff]
  decide

theorem test_witness_not_loadable :
    ¬ (atStk 0x1000).Loadable 0x1000 := by
  simp only [loadable_iff]
  decide

theorem test_witness_StoreThenLoad :
    regOfCode 2 = some .bak ∧ regOfCode 1 = some .acc ∧ Reg.acc ≠ .lst ∧ (atStk 0x5FF).Storable 0x5FF ∧
      (atStk 0x5FF).Loadable 0x5FF ∧ ¬ (atStk 0x5FF).InInput 0x5FF := by
  simp only [storable_iff, loadable_iff, inInput_iff]
  decide

/-- The hypotheses of StoreThenLoad at the last word of a region, after which PSH leaves `stk` outside every region. -/
theorem test_witness_StoreThenLoad_edge :
    regOfCode 3 = some .stk ∧ Reg.stk ≠ .lst ∧ (atStk 0xFFF).Storable 0xFFF ∧ (atStk 0xFFF).Loadable 0xFFF ∧
      ¬ (atStk 0xFFF).InInput 0xFFF := by
  simp only [storable_iff, loadable_iff, inInput_iff]
  decide

theorem test_witness_IncDecResults :
    State.reset.stk.toNat = 0 ∧ State.reset.layout.wf = true := by decide

theorem test_witness_RetResult :
    ∃ s u : State, s.fl1.toNat < s.program.length ∧ s.fl1.toNat + 1 = s.program.length ∧ u.program.length = u.fl1.toNat := 
  ⟨{ State.reset with program := [0, 0], fl1 := 1 }, { State.reset with program := [0, 0], fl1 := 2 }, by decide⟩

theorem test_witness_CallThenReturn :
    ∃ s : State, s.running = true ∧ s.program[s.pcc.toNat]? = some 0x1D ∧ s.program[s.pcc.toNat + 1]? = some (3 : Word) ∧
      s.program[(3 : Word).toNat]? = some 0x1E ∧ s.pcc.toNat + 2 < s.program.length ∧ s.program.length < 2 ^ 32 := 
  ⟨{ State.reset with program := [0x1D, 3, 0x1F, 0x1E] }, by decide⟩

theorem test_witness_FaultChangesNothingElse :
    ∃ s t : State, exec .ret s = .next t ∧ t.outcome ≠ .success := ⟨State.reset, _, rfl, by decide⟩

theorem test_witness_FaultingStepState :
    ∃ s t : State, s.running = true ∧ step s = .next t ∧ t.outcome ≠ .success := ⟨{ State.reset with program := [0x20] }, _, rfl, rfl, by decide⟩

theorem test_witness_FaultingStepState_executed :
    ∃ (s t : State) (i : Instr) (rest : List Word), s.running = true ∧ step s = .next t ∧ t.outcome ≠ .success ∧
      decode (s.program.drop s.pcc.toNat) = .ok (i, rest) := 
  ⟨{ State.reset with program := [0x1, 0x4] }, _, .zro 4, [], rfl, rfl, by decide, rfl⟩

theorem test_witness_FaultingStepState_illegal :
    ∃ (s t : State) (op : Word), s.running = true ∧ step s = .next t ∧ t.outcome ≠ .success ∧
      s.program[s.pcc.toNat]? = some op ∧ 0x20 ≤ op.toNat := 
  ⟨{ State.reset with program := [0x20] }, _, 0x20, rfl, rfl, by decide, rfl, by decide⟩

theorem test_witness_FaultingStepState_truncated :
    ∃ (s t : State) (op : Word), s.running = true ∧ step s = .next t ∧ t.outcome ≠ .success ∧
      s.program[s.pcc.toNat]? = some op ∧ op.toNat < 0x20 ∧ s.program.length - s.pcc.toNat < opcodeWords op.toNat := 
  ⟨{ State.reset with program := [0x2, 0x5] }, _, 0x2, rfl, rfl, by decide, rfl, by decide, by decide⟩

theorem test_witness_OnlyTheStackWordChanges :
    ∃ s t : State, step s = .next t ∧ t.word s.stk.toNat ≠ s.word s.stk.toNat ∧ 0x501 ≠ s.stk.toNat := 
  ⟨{ State.reset with program := [0x17], acc := 5, stk := 0x500 }, _, rfl, by decide⟩

theorem test_witness_ProtectedWordsKept :
    ∃ s t : State, step s = .next t ∧ ¬ s.Storable 0x3FF := ⟨State.reset, State.reset.ended.tick, rfl, by rw [storable_iff]; decide⟩

theorem test_witness_StepUsesOneDataWord :
    ∃ (s t : State) (m : Memory), step s = .next t ∧ s.mem ≠ m ∧ State.word { s with mem := m } s.stk.toNat = s.word s.stk.toNat := 
  ⟨State.reset, State.reset.ended.tick, [(0x500, 1)], rfl, by decide, by decide⟩

/-- The two memories of the witness before agree on a word away from `stk`. -/
theorem test_witness_StepUsesOneDataWord_agree :
    State.word { State.reset with mem := [(0x500, 1)] } 0x501 = State.reset.word 0x501 := by decide

theorem test_witness_StepUsesOneDataWord_input :
    ∃ (s t : State), step s = .next t ∧ s.InInput s.stk.toNat := 
  ⟨{ State.reset with program := [0x19, 0x1], stk := 0x400 }, _, rfl, by rw [inInput_iff]; decide⟩

/-- The invariant holds of a machine with a program (a witness for the statements that assume it). -/
theorem test_witness_constructed_inv :
    (State.constructed Layout.reference [0x1F]).Inv := 
  ⟨by decide, by decide, Memory.wf_nil, by simp [State.constructed], by decide, by decide⟩

theorem test_witness_ProgramCopyReads :
    ∃ (s : State) (r : Region), s.Inv ∧ regionNamed s.layout .program = some r ∧ r.writable = false ∧
      s.program[0]? = some (0x1F : Word) := 
  ⟨State.constructed Layout.reference [0x1F], _, test_witness_constructed_inv, rfl, rfl, rfl⟩

theorem test_witness_StepKeepsInvariant :
    ∃ s t : State, s.Inv ∧ step s = .next t := ⟨State.constructed Layout.reference [0x1F], _, test_witness_constructed_inv, rfl⟩

theorem test_witness_create :
    ∃ s, create Layout.reference [0x1F] = .next s ∧ Layout.reference.wf = true ∧ [(0x1F : Word)].length ≤ Layout.reference.progCap := ⟨_, rfl, by decide, by decide⟩

theorem test_witness_ConstructedState :
    ∃ r, regionNamed Layout.reference .program = some r ∧ [(0x1F : Word)][0]? = some 0x1F ∧
      ∀ k, k < [(0x1F : Word)].length → 1 ≠ r.base + k := ⟨_, rfl, rfl, by decide⟩

theorem test_witness_CreateTooLong :
    smallLayout.wf = true ∧ smallLayout.progCap < ([0, 0, 0, 0, 0] : List Word).length := by decide

theorem test_witness_ReadMemory :
    (∃ ws, readMem 0x500 2 State.reset = .ok ws ∧ ws[1]? = some 0 ∧ ¬ State.reset.InInput (0x500 + 1)) ∧
      (∃ k, k < 2 ∧ State.reset.region (0xFFF + k) = none) ∧ ∀ k, k < 2 → State.reset.region (0xFFE + k) ≠ none := 
  ⟨⟨_, rfl, rfl, by rw [inInput_iff]; decide⟩, ⟨1, by decide, by decide⟩, by decide⟩

theorem test_witness_FileWords :
    ∃ ws, programOfBytes [0, 0, 0, 5] = some ws ∧ ([0, 0, 0, 5] : List Byte)[4 * 0 + 3]? = some 5 := ⟨_, rfl, rfl⟩

theorem test_witness_FileWords_odd :
    ([0, 0, 0, 5, 1] : List Byte).length % 4 ≠ 0 := by decide

end Sys2Proof.Tests
end

section
/-!
The register codes of 10_state.md R30 and R31: the code of each register, and which codes may be read and written.
-/

namespace Sys2Proof.Machine

variable {c : Word} {r : Reg}

/-- The number of the code that names the register (10_state.md R30). -/
def codeOf : Reg → Nat
  | .pcc => 0
  | .acc => 1
  | .bak => 2
  | .stk => 3
  | .lst => 4
  | .fl0 => 5
  | .fl1 => 6

theorem regOfCode_eq_some : regOfCode c = some r ↔ c.toNat = codeOf r := by
  unfold regOfCode
  split <;> cases r <;> simp_all [codeOf]

theorem regOfCode_eq_none : regOfCode c = none ↔ 7 ≤ c.toNat := by
  unfold regOfCode
  split <;> simp_all
  omega

/-- Every named register is readable. -/
@[simp] theorem readableReg_eq : readableReg c = regOfCode c := by
  unfold readableReg
  cases regOfCode c with
  | none => rfl
  | some r => cases r <;> rfl

theorem writeOk_iff : writeOk r = true ↔ r ≠ .lst := by
  cases r <;> simp [writeOk]

/-- Every named register but `lst` is writable. -/
theorem writableReg_eq_some : writableReg c = some r ↔ regOfCode c = some r ∧ r ≠ .lst := by
  simp [writableReg, Option.filter_eq_some_iff, writeOk_iff]

theorem writableReg_eq_none : writableReg c = none ↔ c.toNat = 4 ∨ 7 ≤ c.toNat := by
  have hlst : regOfCode c = some .lst ↔ c.toNat = 4 := regOfCode_eq_some
  rw [← hlst, ← regOfCode_eq_none]
  cases h : regOfCode c with
  | none => simp [writableReg, h]
  | some r => cases r <;> simp [writableReg, h, writeOk]

theorem checkRead_of_some {s : State} {go : Reg → Result} (h : regOfCode c = some r) : checkRead c s go = go r := by
  simp [checkRead, h]

theorem checkRead_of_none {s : State} {go : Reg → Result} (h : 7 ≤ c.toNat) :
    checkRead c s go = stop .invalidRegisterReference s := by
  simp [checkRead, regOfCode_eq_none.mpr h]

theorem checkWrite_of_some {s : State} {go : Reg → Result} (h : regOfCode c = some r) (hr : r ≠ .lst) :
    checkWrite c s go = go r := by
  simp [checkWrite, writableReg_eq_some.mpr ⟨h, hr⟩]

theorem checkWrite_of_none {s : State} {go : Reg → Result} (h : c.toNat = 4 ∨ 7 ≤ c.toNat) :
    checkWrite c s go = stop .invalidRegisterReference s := by
  simp [checkWrite, writableReg_eq_none.mpr h]

/-- Settles O12: each number of a code below 7 is looked up, and the others name nothing. -/
theorem registerCodes : Obligations.RegisterCodes := by
  intro c
  unfold regOfCode
  split <;> simp_all

/-- Settles O13: the two checks go on exactly where the permission table names a register. -/
theorem registerPermissions : Obligations.RegisterPermissions := by
  intro c s go
  refine ⟨fun h => ?_, fun r h => checkRead_of_some h, fun h => ?_, fun r h h4 => ?_⟩
  · rw [checkRead_of_none h, stop_eq]
  · rw [checkWrite_of_none h, stop_eq]
  · refine checkWrite_of_some h fun hr => h4 ?_
    rw [regOfCode_eq_some.mp h, hr, codeOf]

end Sys2Proof.Machine
end

section
/-!
What an execute phase can do, said once: it stops with one of three faults, or it completes with the effect its rule names.
-/

namespace Sys2Proof.Machine

/-- The fault an instruction stops with, and its cause (60_exceptions.md R221, R226). -/
inductive Stops (s : State) : Instr → StepOutcome → Prop
  | code {i} (h : i.codesPermitted = false) : Stops s i .invalidRegisterReference
  | sta (h : ¬ s.Storable s.stk.toNat) : Stops s .sta .invalidStackAddress
  | str {c} (hp : (Instr.str c).codesPermitted = true) (h : ¬ s.Storable s.stk.toNat) : Stops s (.str c) .invalidStackAddress
  | psh (h : ¬ s.Storable s.stk.toNat) : Stops s .psh .invalidStackAddress
  | lds {c} (hp : (Instr.lds c).codesPermitted = true) (h : ¬ s.Loadable s.stk.toNat) : Stops s (.lds c) .invalidStackAddress
  | ret (h : s.program.length ≤ s.fl1.toNat) : Stops s .ret .failure

/-- The state an instruction completes with, before its Success is reported. -/
inductive Effect (s : State) : Instr → State → Prop
  | nop : Effect s .nop s
  | zro {c r} (hw : writableReg c = some r) : Effect s (.zro c) (s.writeThrough r 0)
  | ldi {v c r} (hw : writableReg c = some r) : Effect s (.ldi v c) (s.writeThrough r v)
  | mov {c d q r} (hw : writableReg d = some r) (hq : readableReg c = some q) : Effect s (.mov c d) (s.writeThrough r (s.get q))
  | lds {c r m} (hw : writableReg c = some r) (hm : s.region s.stk.toNat = some m) (hm' : m.readable = true) :
      Effect s (.lds c) (s.writeThrough r
        (if m.name = .input then Config.input s.stk.toNat s.stepIndex else s.word s.stk.toNat))
  | addi {v} : Effect s (.addi v) (s.accumulate (s.acc + v))
  | subi {v} : Effect s (.subi v) (s.accumulate (s.acc - v))
  | addr {c q} (hq : readableReg c = some q) : Effect s (.addr c) (s.accumulate (s.acc + s.get q))
  | subr {c q} (hq : readableReg c = some q) : Effect s (.subr c) (s.accumulate (s.acc - s.get q))
  | swp : Effect s .swp { s with acc := s.bak, bak := s.acc }
  | sav : Effect s .sav { s with bak := s.acc }
  | jmp {a} : Effect s (.jmp a) (s.jump a)
  | jez {a} : Effect s (.jez a) (if wordEq s.acc 0 then s.jump a else s)
  | jnz {a} : Effect s (.jnz a) (if wordNe s.acc 0 then s.jump a else s)
  | jgz {a} : Effect s (.jgz a) (if wordGt s.acc 0 then s.jump a else s)
  | jlz {a} : Effect s (.jlz a) (if wordLt s.acc 0 then s.jump a else s)
  | ceqi {v} : Effect s (.ceqi v) (s.setFlag (wordEq s.acc v))
  | cnei {v} : Effect s (.cnei v) (s.setFlag (wordNe s.acc v))
  | cgti {v} : Effect s (.cgti v) (s.setFlag (wordGt s.acc v))
  | clti {v} : Effect s (.clti v) (s.setFlag (wordLt s.acc v))
  | ceqr {c q} (hq : readableReg c = some q) : Effect s (.ceqr c) (s.setFlag (wordEq s.acc (s.get q)))
  | cner {c q} (hq : readableReg c = some q) : Effect s (.cner c) (s.setFlag (wordNe s.acc (s.get q)))
  | cgtr {c q} (hq : readableReg c = some q) : Effect s (.cgtr c) (s.setFlag (wordGt s.acc (s.get q)))
  | cltr {c q} (hq : readableReg c = some q) : Effect s (.cltr c) (s.setFlag (wordLt s.acc (s.get q)))
  | sta (hs : s.Storable s.stk.toNat) : Effect s .sta { s.storeWord s.stk.toNat s.acc with acc := 0 }
  | str {c q} (hs : s.Storable s.stk.toNat) (hq : readableReg c = some q) :
      Effect s (.str c) (s.storeWord s.stk.toNat (s.get q))
  | psh (hs : s.Storable s.stk.toNat) : Effect s .psh { s.storeWord s.stk.toNat s.acc with acc := 0, stk := s.stk + 1 }
  | inc : Effect s .inc { s with stk := s.stk + 1 }
  | dec : Effect s .dec { s with stk := s.stk - 1 }
  | cal {a} : Effect s (.cal a) ({ s with fl1 := s.pcc }.jump a)
  | ret (hl : s.fl1.toNat < s.program.length) : Effect s .ret (s.jump s.fl1)
  | hlt : Effect s .hlt s.halt

/-- The next state of the execute phase of `i` from `s`: a fault's, or the effect's with Success reported. -/
def Executed (i : Instr) (s t : State) : Prop :=
  (∃ o, Stops s i o ∧ t = s.stopped o) ∨ ∃ u, Effect s i u ∧ t = u.succeeded

variable {i : Instr} {s t u : State} {c : Word}

theorem Stops.ne_success {o : StepOutcome} (h : Stops s i o) : o ≠ .success := by
  cases h <;> decide

theorem codesPermitted_of_unreadable (hc : c ∈ i.codesRead) (h : readableReg c = none) : i.codesPermitted = false := by
  simp only [Instr.codesPermitted, Bool.and_eq_false_iff, List.all_eq_false]
  exact .inl ⟨c, hc, by rw [h]; exact Bool.false_ne_true⟩

theorem codesPermitted_of_unwritable (hc : c ∈ i.codesWritten) (h : writableReg c = none) : i.codesPermitted = false := by
  simp only [Instr.codesPermitted, Bool.and_eq_false_iff, List.all_eq_false]
  exact .inr ⟨c, hc, by rw [h]; exact Bool.false_ne_true⟩

theorem Executed.complete (he : Effect s i u) (h : complete u = .next t) : Executed i s t :=
  .inr ⟨u, he, complete_next.mp h⟩

/-- An instruction that reads through a code stops, or goes on with the register. -/
theorem Executed.of_checkRead {go : Reg → Result} (h : checkRead c s go = .next t) (hc : c ∈ i.codesRead)
    (hgo : ∀ q, readableReg c = some q → go q = .next t → Executed i s t) : Executed i s t := by
  obtain ⟨hn, rfl⟩ | ⟨q, hq, h⟩ := checkRead_next h
  · exact .inl ⟨_, .code (codesPermitted_of_unreadable hc hn), rfl⟩
  · exact hgo q hq h

/-- An instruction that writes through a code stops, or goes on with the register. -/
theorem Executed.of_checkWrite {go : Reg → Result} (h : checkWrite c s go = .next t) (hc : c ∈ i.codesWritten)
    (hgo : ∀ r, writableReg c = some r → go r = .next t → Executed i s t) : Executed i s t := by
  obtain ⟨hn, rfl⟩ | ⟨r, hr, h⟩ := checkWrite_next h
  · exact .inl ⟨_, .code (codesPermitted_of_unwritable hc hn), rfl⟩
  · exact hgo r hr h

/-- An instruction that stores at `stk` stops, or goes on with the word stored. -/
theorem Executed.of_memWrite {v : Word} {go : State → Result} (h : memWrite s.stk v s go = .next t)
    (hstop : ¬ s.Storable s.stk.toNat → Stops s i .invalidStackAddress)
    (hgo : s.Storable s.stk.toNat → go (s.storeWord s.stk.toNat v) = .next t → Executed i s t) : Executed i s t := by
  obtain ⟨hn, rfl⟩ | ⟨m, hm, hw, h⟩ := memWrite_next h
  · refine .inl ⟨_, hstop ?_, rfl⟩
    rintro ⟨m, hm, hw⟩
    simp [hn m hm] at hw
  · exact hgo ⟨m, hm, hw⟩ h

theorem execStr_executed (h : execStr c s = .next t) : Executed (.str c) s t := by
  refine .of_checkRead h (by simp [Instr.codesRead]) fun q hq h => ?_
  refine .of_memWrite h (.str ?_) fun hs h => .complete (.str hs hq) h
  simpa [Instr.codesPermitted, Instr.codesRead, Instr.codesWritten] using congrArg Option.isSome hq

theorem execLds_executed (h : execLds c s = .next t) : Executed (.lds c) s t := by
  refine .of_checkWrite h (by simp [Instr.codesWritten]) fun r hr h => ?_
  obtain ⟨hn, rfl⟩ | ⟨m, hm, hl, h⟩ := memRead_next h
  · refine .inl ⟨_, .lds ?_ ?_, rfl⟩
    · simp [Instr.codesPermitted, Instr.codesRead, Instr.codesWritten, hr]
    · rintro ⟨m, hm, hl⟩
      simp [hn m hm] at hl
  · exact .complete (.lds hr hm hl) h

theorem execRet_executed (h : execRet s = .next t) : Executed .ret s t := by
  unfold execRet at h
  split at h
  · exact .complete (.ret ‹_›) h
  · exact .inl ⟨_, .ret (by omega), stop_next.mp h⟩

/-- Every next state of the execute phase is a fault's or the instruction's effect. -/
theorem exec_executed (h : exec i s = .next t) : Executed i s t := by
  cases i with
  | str c => exact execStr_executed h
  | lds c => exact execLds_executed h
  | ret => exact execRet_executed h
  | sta =>
    simp only [exec, execSta] at h
    exact .of_memWrite h .sta fun hs h => .complete (.sta hs) h
  | psh =>
    simp only [exec, execPsh] at h
    exact .of_memWrite h .psh fun hs h => .complete (.psh hs) h
  | ldi v c => exact .of_checkWrite h (by simp [Instr.codesWritten]) fun r hr h => .complete (.ldi hr) h
  | zro c =>
    exact .of_checkRead h (by simp [Instr.codesRead]) fun _ _ h =>
      .of_checkWrite h (by simp [Instr.codesWritten]) fun r hr h => .complete (.zro hr) h
  | mov c d =>
    exact .of_checkRead h (by simp [Instr.codesRead]) fun q hq h =>
      .of_checkWrite h (by simp [Instr.codesWritten]) fun r hr h => .complete (.mov hr hq) h
  | addr c | subr c | ceqr c | cner c | cgtr c | cltr c =>
    exact .of_checkRead h (by simp [Instr.codesRead]) fun q hq h => .complete (by constructor; exact hq) h
  | _ => exact .complete (by constructor) h

end Sys2Proof.Machine
end

section
/-!
Which registers an instruction writes: through a code (10_state.md R32) or by name.
-/

namespace Sys2Proof.Machine

/-- The registers an instruction writes by name, `lst` with every write through a code (10_state.md R33). -/
def namedWrites : Instr → List Reg
  | .zro _ | .ldi _ _ | .mov _ _ | .lds _ => [.lst]
  | .addi _ | .subi _ | .addr _ | .subr _ => [.acc, .lst]
  | .swp => [.acc, .bak]
  | .sav => [.bak]
  | .jmp _ | .jez _ | .jnz _ | .jgz _ | .jlz _ | .ret => [.pcc]
  | .ceqi _ | .cnei _ | .cgti _ | .clti _ | .ceqr _ | .cner _ | .cgtr _ | .cltr _ => [.fl0]
  | .sta => [.acc]
  | .inc | .dec => [.stk]
  | .psh => [.acc, .stk]
  | .cal _ => [.fl1, .pcc]
  | .nop | .str _ | .hlt => []

variable {i : Instr} {s t u : State} {q : Reg}

/-- A register the instruction writes neither by name nor through a code keeps its word. -/
theorem Effect.get_eq (he : Effect s i u) (hn : q ∉ namedWrites i) (hc : ∀ c ∈ i.codesWritten, regOfCode c ≠ some q) :
    u.get q = s.get q := by
  cases he with
  | zro hw | ldi hw | mov hw _ | lds hw _ _ =>
    obtain ⟨hr, -⟩ := writableReg_eq_some.mp hw
    have hq : regOfCode _ ≠ some q := hc _ (List.mem_singleton_self _)
    rw [State.get_writeThrough, if_neg]
    rintro (rfl | rfl)
    · exact hq hr
    · exact hn (List.mem_singleton_self _)
  | jez | jnz | jgz | jlz => split <;> cases q <;> simp_all [namedWrites]
  | _ => cases q <;> simp_all [namedWrites]

/-- A register that changes is written by name or through its code. -/
theorem exec_get_ne (h : exec i s = .next t) (hne : t.get q ≠ s.get q) :
    q ∈ namedWrites i ∨ ∃ c ∈ i.codesWritten, c.toNat = codeOf q := by
  by_contra hw
  push Not at hw
  obtain ⟨hn, hc⟩ := hw
  obtain ⟨o, -, rfl⟩ | ⟨u, he, rfl⟩ := exec_executed h
  · exact hne (State.get_stopped ..)
  · refine hne ((State.get_succeeded ..).trans (he.get_eq hn fun c hmem hr => ?_))
    exact hc c hmem (regOfCode_eq_some.mp hr)

theorem fl0_mem_namedWrites (h : .fl0 ∈ namedWrites i) :
    ∃ b, i = .ceqi b ∨ i = .cnei b ∨ i = .cgti b ∨ i = .clti b ∨ i = .ceqr b ∨ i = .cner b ∨ i = .cgtr b ∨ i = .cltr b := by
  cases i <;> simp_all [namedWrites]

theorem fl1_mem_namedWrites (h : .fl1 ∈ namedWrites i) : ∃ a, i = .cal a := by
  cases i <;> simp_all [namedWrites]

theorem bak_mem_namedWrites (h : .bak ∈ namedWrites i) : i = .swp ∨ i = .sav := by
  cases i <;> simp_all [namedWrites]

theorem stk_mem_namedWrites (h : .stk ∈ namedWrites i) : i = .inc ∨ i = .dec ∨ i = .psh := by
  cases i <;> simp_all [namedWrites]

/-- Settles O15: `fl0` is written by name by the compares alone. -/
theorem flagWriters : Obligations.FlagWriters := by
  intro i s t h hne
  exact (exec_get_ne (q := .fl0) h hne).symm.imp_right fl0_mem_namedWrites

/-- Settles O17: the writers by name of each of the three registers, and the writes through its code. -/
theorem registerWriters : Obligations.RegisterWriters := by
  intro i s t h
  refine ⟨fun hne => ?_, fun hne => ?_, fun hne => ?_⟩
  · exact (exec_get_ne (q := .fl1) h hne).imp_left fl1_mem_namedWrites
  · simpa only [or_assoc, codeOf] using (exec_get_ne (q := .bak) h hne).imp_left bak_mem_namedWrites
  · simpa only [or_assoc, codeOf] using (exec_get_ne (q := .stk) h hne).imp_left stk_mem_namedWrites

/-- The fetches find the instruction that the rest of the program decodes to. -/
theorem decode_of_fetch_eq_instr (h : fetch s = .instr i) : ∃ rest, decode s.window = .ok (i, rest) := by
  unfold fetch at h
  split at h <;> simp_all

/-- After a write through a code the register it names, which is not `lst`, and `lst` hold the same word. -/
theorem exists_lst_writeThrough_eq_get {c : Word} {r : Reg} {v : Word} (hw : writableReg c = some r) :
    ∃ q, regOfCode c = some q ∧ q ≠ .lst ∧ (s.writeThrough r v).lst = (s.writeThrough r v).get q := by
  obtain ⟨hr, hne⟩ := writableReg_eq_some.mp hw
  exact ⟨r, hr, hne, by simp [State.get_writeThrough, ← State.get_lst]⟩

/-- Settles O14: each effect's `lst`; and a step without an instruction changes no register but `pcc`. -/
theorem lastWrittenRule : Obligations.LastWrittenRule := by
  refine ⟨fun i s t h ho => ?_, fun s t h hd => ?_⟩
  · obtain ⟨o, hs, rfl⟩ | ⟨u, he, rfl⟩ := exec_executed h
    · exact absurd ho hs.ne_success
    · cases he with
      | zro hw | ldi hw | mov hw _ | lds hw _ _ => simpa using exists_lst_writeThrough_eq_get hw
      | jez | jnz | jgz | jlz => dsimp only; split <;> rfl
      | _ => rfl
  · obtain ⟨-, rfl⟩ | ⟨-, ⟨-, rfl⟩ | ⟨n, -, rfl⟩ | ⟨i, u, hf, -⟩⟩ := step_next h
    · rfl
    · rfl
    · rfl
    · obtain ⟨rest, hrest⟩ := decode_of_fetch_eq_instr hf
      exact absurd hrest (hd i rest)

end Sys2Proof.Machine
end

section
/-!
`lst` and `fl0` are read through codes 4 and 5 alone (10_state.md R26, R36): the execute phase from two states that differ in these
two registers only, operation by operation.
-/

namespace Sys2Proof.Machine

/-- The state with other words in the audit register and the flag. -/
def State.withAudit (s : State) (v w : Word) : State :=
  { s with lst := v, fl0 := w }

/-- Where the first result is a next state the second is the same one, but for `lst` and `fl0`. -/
def SameButAudit (r r' : Result) : Prop :=
  ∀ t, r = .next t → ∃ v w, r' = .next (t.withAudit v w)

variable {s : State} {v w c : Word}

@[simp] theorem State.withAudit_fl1 : (s.withAudit v w).fl1 = s.fl1 := rfl
@[simp] theorem State.withAudit_program : (s.withAudit v w).program = s.program := rfl
@[simp] theorem State.withAudit_region (a : Nat) : (s.withAudit v w).region a = s.region a := rfl

theorem State.get_withAudit {r : Reg} (hl : r ≠ .lst) (hf : r ≠ .fl0) : (s.withAudit v w).get r = s.get r := by
  cases r with
  | lst | fl0 => contradiction
  | _ => rfl

theorem State.writeThrough_withAudit (r : Reg) (x : Word) :
    ∃ v' w', (s.withAudit v w).writeThrough r x = (s.writeThrough r x).withAudit v' w' := by
  cases r <;> exact ⟨_, _, rfl⟩

theorem SameButAudit.stop (o : StepOutcome) : SameButAudit (stop o s) (stop o (s.withAudit v w)) := by
  rintro _ ⟨⟩
  exact ⟨v, w, rfl⟩

theorem SameButAudit.complete {u : State} (h : ∃ v' w', u = s.withAudit v' w') :
    SameButAudit (complete s) (complete u) := by
  obtain ⟨v', w', rfl⟩ := h
  rintro _ ⟨⟩
  exact ⟨v', w', rfl⟩

theorem SameButAudit.checkRead {go go' : Reg → Result} (hc : c.toNat ≠ 4 ∧ c.toNat ≠ 5)
    (hgo : ∀ r, r ≠ .lst → r ≠ .fl0 → SameButAudit (go r) (go' r)) :
    SameButAudit (checkRead c s go) (checkRead c (s.withAudit v w) go') := by
  unfold Machine.checkRead
  rw [readableReg_eq]
  cases hr : regOfCode c with
  | none => exact .stop _
  | some r =>
    have hcode := regOfCode_eq_some.mp hr
    exact hgo r (by rintro rfl; exact hc.1 hcode) (by rintro rfl; exact hc.2 hcode)

theorem SameButAudit.checkWrite {go go' : Reg → Result} (hgo : ∀ r, SameButAudit (go r) (go' r)) :
    SameButAudit (checkWrite c s go) (checkWrite c (s.withAudit v w) go') := by
  unfold Machine.checkWrite
  cases writableReg c with
  | none => exact .stop _
  | some r => exact hgo r

theorem SameButAudit.memRead {a : Word} {go go' : Word → Result} (hgo : ∀ x, SameButAudit (go x) (go' x)) :
    SameButAudit (memRead a s go) (memRead a (s.withAudit v w) go') := by
  unfold Machine.memRead
  rw [State.withAudit_region]
  cases s.region a.toNat with
  | none => exact .stop _
  | some m =>
    dsimp only
    split
    · split <;> exact hgo _
    · exact .stop _

theorem SameButAudit.memWrite {a x : Word} {go go' : State → Result}
    (hgo : SameButAudit (go (s.storeWord a.toNat x)) (go' ((s.storeWord a.toNat x).withAudit v w))) :
    SameButAudit (memWrite a x s go) (memWrite a x (s.withAudit v w) go') := by
  unfold Machine.memWrite
  rw [State.withAudit_region]
  cases s.region a.toNat with
  | none => exact .stop _
  | some m =>
    dsimp only
    split
    · exact hgo
    · exact .stop _

theorem SameButAudit.jumpIf (b : Bool) (a : Word) : SameButAudit (jumpIf b a s) (jumpIf b a (s.withAudit v w)) := by
  cases b <;> exact .complete ⟨v, w, rfl⟩

theorem SameButAudit.execRet : SameButAudit (execRet s) (execRet (s.withAudit v w)) := by
  unfold Machine.execRet
  rw [State.withAudit_fl1, State.withAudit_program]
  split
  · exact .complete ⟨_, _, rfl⟩
  · exact .stop _

/-- An instruction that reads neither code answers the same from both states. -/
theorem exec_withAudit (i : Instr) (hc : ∀ c ∈ i.codesRead, c.toNat ≠ 4 ∧ c.toNat ≠ 5) :
    SameButAudit (exec i s) (exec i (s.withAudit v w)) := by
  cases i with
  | zro c =>
    exact .checkRead (hc c (List.mem_singleton_self c)) fun _ _ _ => .checkWrite fun r =>
      .complete (State.writeThrough_withAudit r 0)
  | mov c d =>
    refine .checkRead (hc c (List.mem_singleton_self c)) fun q hl hf => .checkWrite fun r => ?_
    rw [State.get_withAudit hl hf]
    exact .complete (State.writeThrough_withAudit r _)
  | ldi x c => exact .checkWrite fun r => .complete (State.writeThrough_withAudit r x)
  | lds c => exact .checkWrite fun r => .memRead fun x => .complete (State.writeThrough_withAudit r x)
  | addr c | subr c | ceqr c | cner c | cgtr c | cltr c =>
    refine .checkRead (hc c (List.mem_singleton_self c)) fun q hl hf => ?_
    rw [State.get_withAudit hl hf]
    exact .complete ⟨_, _, rfl⟩
  | str c =>
    refine .checkRead (hc c (List.mem_singleton_self c)) fun q hl hf => ?_
    rw [State.get_withAudit hl hf]
    exact .memWrite (.complete ⟨_, _, rfl⟩)
  | sta =>
    simp only [exec, execSta]
    exact .memWrite (.complete ⟨_, _, rfl⟩)
  | psh =>
    simp only [exec, execPsh]
    exact .memWrite (.complete ⟨_, _, rfl⟩)
  | jez a | jnz a | jgz a | jlz a => exact .jumpIf _ a
  | ret => exact .execRet
  | _ => exact .complete ⟨_, _, rfl⟩

/-- Settles O16, by the two runs' agreement on every operation. -/
theorem auditAndFlagReadByCodeOnly : Obligations.AuditAndFlagReadByCodeOnly := by
  intro i s t v w hc h
  obtain ⟨v', w', h'⟩ := exec_withAudit (v := v) (w := w) i hc t h
  exact ⟨_, h', rfl⟩

end Sys2Proof.Machine
end

section
/-!
What a step leaves of the construction and the Word Store, and with it the invariant.
-/

namespace Sys2Proof.Machine

/-- From `s` to `t` the construction parameters are unchanged, and the Word Store is too but for one word stored at `stk`, if that
address may be written (20_memory.md R55, R57). -/
structure StoresAtStk (s t : State) : Prop where
  program : t.program = s.program
  layout : t.layout = s.layout
  mem : t.mem = s.mem ∨ s.Storable s.stk.toNat ∧ ∃ v, t.mem = Memory.write s.unlisted s.stk.toNat v s.mem

/-- The status stays, or becomes that of a finished program. -/
def StatusKeptOrEnded (s t : State) : Prop :=
  (t.running = s.running ∧ t.finished = s.finished) ∨ (t.running = false ∧ t.finished = true)

variable {i : Instr} {s t u : State}

theorem Effect.storesAtStk (he : Effect s i u) : StoresAtStk s u := by
  cases he with
  | sta hs | str hs _ | psh hs => exact ⟨rfl, rfl, .inr ⟨hs, _, rfl⟩⟩
  | jez | jnz | jgz | jlz => split <;> exact ⟨rfl, rfl, .inl rfl⟩
  | zro | ldi | mov | lds =>
    exact ⟨State.writeThrough_program .., State.writeThrough_layout .., .inl (State.writeThrough_mem ..)⟩
  | _ => exact ⟨rfl, rfl, .inl rfl⟩

theorem Effect.status (he : Effect s i u) : StatusKeptOrEnded s u := by
  cases he with
  | hlt => exact .inr ⟨rfl, rfl⟩
  | jez | jnz | jgz | jlz => split <;> exact .inl ⟨rfl, rfl⟩
  | zro | ldi | mov | lds => exact .inl ⟨State.writeThrough_running .., State.writeThrough_finished ..⟩
  | _ => exact .inl ⟨rfl, rfl⟩

theorem exec_storesAtStk (h : exec i s = .next t) : StoresAtStk s t := by
  obtain ⟨o, -, rfl⟩ | ⟨u, he, rfl⟩ := exec_executed h
  · exact ⟨rfl, rfl, .inl rfl⟩
  · exact ⟨he.storesAtStk.program, he.storesAtStk.layout, he.storesAtStk.mem⟩

theorem step_storesAtStk (h : step s = .next t) : StoresAtStk s t := by
  obtain ⟨-, rfl⟩ | ⟨-, ⟨-, rfl⟩ | ⟨n, -, rfl⟩ | ⟨i, u, -, hx, rfl⟩⟩ := step_next h
  · exact ⟨rfl, rfl, .inl rfl⟩
  · exact ⟨rfl, rfl, .inl rfl⟩
  · exact ⟨rfl, rfl, .inl rfl⟩
  · obtain ⟨hp, hl, hm⟩ := exec_storesAtStk hx
    exact ⟨hp, hl, hm⟩

/-- Settles O50: no effect touches the construction parameters. -/
theorem constructionFixed : Obligations.ConstructionFixed :=
  fun _ _ h => ⟨(step_storesAtStk h).program, (step_storesAtStk h).layout⟩

/-- A fault clears `running` alone; a completed instruction keeps the status, or it is that of a finished program. -/
theorem exec_status (h : exec i s = .next t) :
    (t.outcome ≠ .success ∧ t.running = false ∧ t.finished = s.finished) ∨
      (t.outcome = .success ∧ StatusKeptOrEnded s t) := by
  obtain ⟨o, hs, rfl⟩ | ⟨u, he, rfl⟩ := exec_executed h
  · exact .inl ⟨hs.ne_success, rfl, rfl⟩
  · exact .inr ⟨rfl, he.status⟩

/-- The two clauses of the invariant about the status (10_state.md R29, 60_exceptions.md R222). -/
def State.StatusOk (s : State) : Prop :=
  ¬ (s.running = true ∧ s.finished = true) ∧ (s.outcome ≠ .success → s.running = false ∧ s.finished = false)

theorem exec_statusOk (hf : s.finished = false) (h : exec i s = .next t) : t.StatusOk := by
  obtain ⟨ho, hr, hf'⟩ | ⟨ho, ⟨-, hf'⟩ | ⟨hr, -⟩⟩ := exec_status h
  · exact ⟨by simp [hr], fun _ => ⟨hr, hf'.trans hf⟩⟩
  · exact ⟨by simp [hf', hf], fun hne => absurd ho hne⟩
  · exact ⟨by simp [hr], fun hne => absurd ho hne⟩

theorem step_statusOk (hs : s.StatusOk) (h : step s = .next t) : t.StatusOk := by
  obtain ⟨hr, rfl⟩ | ⟨hr, hcases⟩ := step_next h
  · exact ⟨by simp [hr], by simp⟩
  · have hf : s.finished = false := by simpa [hr] using hs.1
    obtain ⟨-, rfl⟩ | ⟨n, -, rfl⟩ | ⟨i, u, -, hx, rfl⟩ := hcases
    · exact ⟨by simp, by simp⟩
    · exact ⟨by simp, by simp [hf]⟩
    · have hu : u.StatusOk := exec_statusOk (s := s.advance (instrWords i)) hf hx
      exact hu

/-- A word stored where the region table allows it, or none, keeps the invariant's clauses about construction and memory. -/
theorem State.Inv.of_storesAtStk (hi : s.Inv) (hst : StoresAtStk s t) (hs : t.StatusOk) : t.Inv := by
  obtain ⟨hp, hl, hm⟩ := hst
  have hu : t.unlisted = s.unlisted := by simp [State.unlisted, hp, hl]
  have hstorable : ∀ a, s.Storable a → t.Storable a := fun a ha => by
    simpa [State.Storable, State.region_congr hl] using ha
  refine ⟨hl ▸ hi.layout, hp ▸ hl ▸ hi.fits, ?_, fun c hc => hstorable _ ?_, hs.1, hs.2⟩
  · obtain hm | ⟨-, v, hm⟩ := hm
    · exact hu ▸ hm ▸ hi.canonical
    · exact hu ▸ hm ▸ Memory.wf_write hi.canonical
  · obtain hm | ⟨hstk, v, hm⟩ := hm
    · exact hi.confined c (hm ▸ hc)
    · obtain rfl | hc := Memory.mem_write (hm ▸ hc)
      · exact hstk
      · exact hi.confined c hc

/-- Settles O52: a step stores at most one word, at a writable address, and keeps the status clauses. -/
theorem stepKeepsInvariant : Obligations.StepKeepsInvariant :=
  fun _ _ hi h => hi.of_storesAtStk (step_storesAtStk h) (step_statusOk ⟨hi.status, hi.reported⟩ h)

end Sys2Proof.Machine
end

section
/-!
The machine CREATE makes (70_reset_and_hazards.md R260).
-/

namespace Sys2Proof.Machine

variable {l : Layout} {p : List Word} {a k : Nat} {w : Word} {r : Region}

theorem create_of_fits (hl : l.wf = true) (hp : p.length ≤ l.progCap) : create l p = .next (State.constructed l p) := by
  simp [create, Layout.fits, hl, hp]

@[simp] theorem State.constructed_word : (State.constructed l p).word a = constructedWord l p a := rfl

/-- The program's copy stands at the program region's base (20_memory.md R60). -/
theorem constructedWord_program (hr : regionNamed l .program = some r) (hk : p[k]? = some w) :
    constructedWord l p (r.base + k) = w := by
  simp [constructedWord, hr, hk]

/-- Away from the program's copy every word is 0. -/
theorem constructedWord_elsewhere (ha : ∀ r k, regionNamed l .program = some r → k < p.length → a ≠ r.base + k) :
    constructedWord l p a = 0 := by
  unfold constructedWord
  split
  · rfl
  · rename_i r hr
    split
    · have hk : p.length ≤ a - r.base := by
        by_contra hlt
        exact ha r (a - r.base) hr (by omega) (by omega)
      simp [List.getElem?_eq_none hk]
    · rfl

/-- Settles O55: the constructed state, field by field. -/
theorem constructedState : Obligations.ConstructedState := by
  intro l p hl hp
  refine ⟨_, create_of_fits hl hp, fun r => by cases r <;> rfl, rfl, rfl, rfl, rfl, rfl, ?_, ?_⟩
  · exact fun r k w hr hk => State.constructed_word.trans (constructedWord_program hr hk)
  · exact fun a ha => State.constructed_word.trans (constructedWord_elsewhere ha)

end Sys2Proof.Machine
end

section
/-!
The words of a program file (20_memory.md R61), which the host's loader makes.
-/

namespace Sys2Proof

theorem wordOfBytes_toNat (b0 b1 b2 b3 : Byte) :
    (wordOfBytes b0 b1 b2 b3).toNat = b0.toNat * 2 ^ 24 + b1.toNat * 2 ^ 16 + b2.toNat * 2 ^ 8 + b3.toNat := by
  rw [wordOfBytes, BitVec.toNat_ofNat]
  exact Nat.mod_eq_of_lt (by omega)

/-- A ragged file, whose length is no multiple of 4, makes no program (60_exceptions.md R246). -/
theorem programOfBytes_eq_none (bs : List Byte) : programOfBytes bs = none ↔ bs.length % 4 ≠ 0 := by
  induction bs using programOfBytes.induct with
  | case1 => simp [programOfBytes]
  | case2 b0 b1 b2 b3 rest ih =>
    simp only [programOfBytes, Option.map_eq_none_iff, ih, List.length_cons]
    omega
  | case3 bs hnil hfour =>
    match bs with
    | [] => exact absurd rfl hnil
    | b0 :: b1 :: b2 :: b3 :: rest => exact absurd rfl (hfour b0 b1 b2 b3 rest)
    | [_] | [_, _] | [_, _, _] => simp [programOfBytes]

theorem programOfBytes_cons_eq_some {b0 b1 b2 b3 : Byte} {rest : List Byte} {ws : List Word} :
    programOfBytes (b0 :: b1 :: b2 :: b3 :: rest) = some ws ↔
      ∃ vs, programOfBytes rest = some vs ∧ ws = wordOfBytes b0 b1 b2 b3 :: vs := by
  simp [programOfBytes, eq_comm]

theorem length_of_programOfBytes {bs : List Byte} {ws : List Word} (h : programOfBytes bs = some ws) :
    4 * ws.length = bs.length := by
  induction bs using programOfBytes.induct generalizing ws with
  | case1 => cases h; rfl
  | case2 b0 b1 b2 b3 rest ih =>
    obtain ⟨vs, hvs, rfl⟩ := programOfBytes_cons_eq_some.mp h
    simp [← ih hvs, Nat.mul_succ]
  | case3 bs hnil hfour => simp [programOfBytes] at h

/-- Word `k` is made of the bytes from `4 k` on. -/
theorem getElem?_of_programOfBytes {bs : List Byte} {ws : List Word} {k : Nat} {b0 b1 b2 b3 : Byte}
    (h : programOfBytes bs = some ws) (h0 : bs[4 * k]? = some b0) (h1 : bs[4 * k + 1]? = some b1)
    (h2 : bs[4 * k + 2]? = some b2) (h3 : bs[4 * k + 3]? = some b3) : ws[k]? = some (wordOfBytes b0 b1 b2 b3) := by
  induction bs using programOfBytes.induct generalizing ws k with
  | case1 => cases h0
  | case2 c0 c1 c2 c3 rest ih =>
    obtain ⟨vs, hvs, rfl⟩ := programOfBytes_cons_eq_some.mp h
    cases k with
    | zero => simp_all
    | succ k =>
      rw [List.getElem?_cons_succ]
      exact ih hvs h0 h1 h2 h3
  | case3 bs hnil hfour => simp [programOfBytes] at h

/-- Settles O60: the recursion takes four bytes for each word. -/
theorem fileWords : Obligations.FileWords :=
  ⟨wordOfBytes_toNat, programOfBytes_eq_none, fun _ _ h =>
    ⟨length_of_programOfBytes h, fun _ _ _ _ _ h0 h1 h2 h3 => getElem?_of_programOfBytes h h0 h1 h2 h3⟩⟩

end Sys2Proof
end

section
/-!
The regions of a well-formed table (20_memory.md R51 to R53), and the program's copy in a region that no step writes (R66).
-/

namespace Sys2Proof.Machine

variable {l : Layout} {r q : Region} {a : Nat} {n : RegionName}

theorem covers_iff : r.covers a = true ↔ r.base ≤ a ∧ a < r.base + r.length := by
  simp [Region.covers]

theorem apart_iff :
    r.apart q = true ↔ ((r.base + r.length ≤ q.base ∨ q.base + q.length ≤ r.base) ∨ r.length = 0) ∨ q.length = 0 := by
  simp [Region.apart]

theorem not_covers_of_apart (h : r.apart q = true) (ha : r.covers a = true) : ¬ q.covers a = true := by
  rw [apart_iff] at h
  rw [covers_iff] at ha ⊢
  omega

theorem regionOf_eq_some (h : regionOf l a = some r) : r ∈ l.regions ∧ r.covers a = true :=
  ⟨List.mem_of_find?_eq_some h, by simpa using List.find?_some h⟩

theorem regionNamed_eq_some (h : regionNamed l n = some r) : r ∈ l.regions ∧ r.name = n :=
  ⟨List.mem_of_find?_eq_some h, by simpa using List.find?_some h⟩

/-- In a well-formed table one region covers an address (20_memory.md R51). -/
theorem eq_of_covers (hl : l.wf = true) (hr : r ∈ l.regions) (hq : q ∈ l.regions) (hra : r.covers a = true)
    (hqa : q.covers a = true) : r = q := by
  have hdisjoint : l.regions.Pairwise fun r q => r.apart q = true := by
    simp only [Layout.wf, Bool.and_eq_true, Layout.disjoint, decide_eq_true_eq] at hl
    tauto
  have hsymm : Std.Symm fun r q : Region => r.apart q = true := ⟨fun r q h => by
    rw [apart_iff] at h ⊢
    omega⟩
  by_contra hne
  exact not_covers_of_apart (hdisjoint.forall hr hq hne) hra hqa

/-- The region of an address is the one that covers it (20_memory.md R52). -/
theorem regionOf_eq_of_covers (hl : l.wf = true) (hr : r ∈ l.regions) (ha : r.covers a = true) : regionOf l a = some r := by
  cases hq : regionOf l a with
  | none => exact absurd ha (List.find?_eq_none.mp hq r hr)
  | some q =>
    obtain ⟨hqr, hqa⟩ := regionOf_eq_some hq
    rw [eq_of_covers hl hqr hr hqa ha]

/-- A well-formed table's PROG_CAP is the program region's length (92_eei_decisions.md D21). -/
theorem progCap_eq_length (hl : l.wf = true) (hr : regionNamed l .program = some r) : l.progCap = r.length := by
  obtain ⟨hmem, hname⟩ := regionNamed_eq_some hr
  simp only [Layout.wf, Layout.capOk, Bool.and_eq_true, List.all_eq_true] at hl
  obtain ⟨⟨-, -, hcap⟩, -⟩ := hl
  simpa [hname] using hcap r hmem

/-- An address the memory does not list reads as constructed. -/
theorem Memory.read_of_unlisted {u : Nat → Word} {m : Memory} (h : ∀ c ∈ m, c.1 ≠ a) : Memory.read u a m = u a := by
  induction m with
  | nil => rfl
  | cons c m ih =>
    rw [Memory.read, if_neg (h c List.mem_cons_self)]
    exact ih fun d hd => h d (List.mem_cons_of_mem c hd)

/-- With the invariant, a word outside the writable regions is the one of construction (20_memory.md R57, R65). -/
theorem State.Inv.word_eq_constructedWord {s : State} (hi : s.Inv) (ha : ¬ s.Storable a) :
    s.word a = constructedWord s.layout s.program a :=
  Memory.read_of_unlisted fun c hc hca => ha (hca ▸ hi.confined c hc)

/-- Settles O51: the copy lies in the program region, so its words are those of construction. -/
theorem programCopyReads : Obligations.ProgramCopyReads := by
  intro s r k w hi hr hro hk
  have hlt : k < r.length :=
    calc k < s.program.length := (List.getElem?_eq_some_iff.mp hk).1
      _ ≤ s.layout.progCap := hi.fits
      _ = r.length := progCap_eq_length hi.layout hr
  have hregion : s.region (r.base + k) = some r :=
    regionOf_eq_of_covers hi.layout (regionNamed_eq_some hr).1 (covers_iff.mpr (by omega))
  have hprot : ¬ s.Storable (r.base + k) := by simp [State.Storable, hregion, hro]
  rw [hi.word_eq_constructedWord hprot, constructedWord_program hr hk]

/-- Settles O58: the one region that covers the address in each range of the table, and none above. -/
theorem referenceLayout : Obligations.ReferenceLayout := by
  have hwf : Layout.reference.wf = true := by decide
  refine ⟨hwf, rfl, rfl, fun a => ?_⟩
  split_ifs
  case neg =>
    simp only [regionOf, Layout.reference, List.find?_eq_none, List.forall_mem_cons, covers_iff]
    exact ⟨by omega, by omega, by omega, by omega, List.forall_mem_nil _⟩
  all_goals exact regionOf_eq_of_covers hwf (by simp [Layout.reference]) (covers_iff.mpr (by dsimp only; omega))

end Sys2Proof.Machine
end

section
/-!
The one word of the Word Store a step can change (20_memory.md R55, R57).
-/

namespace Sys2Proof.Machine

variable {s t : State} {a : Nat}

/-- A word keeps its value, or it is the one at `stk` and a region lets it be written. -/
theorem StoresAtStk.word_eq_or (h : StoresAtStk s t) (a : Nat) :
    t.word a = s.word a ∨ (a = s.stk.toNat ∧ s.Storable a) := by
  obtain ⟨hp, hl, hm | ⟨hs, v, hm⟩⟩ := h
  · exact .inl (State.word_congr hm hp hl a)
  · by_cases ha : a = s.stk.toNat
    · exact .inr ⟨ha, ha ▸ hs⟩
    · have ht : t.word a = (s.storeWord s.stk.toNat v).word a :=
        State.word_congr (s := s.storeWord s.stk.toNat v) hm hp hl a
      exact .inl (ht.trans (State.word_storeWord_other s v ha))

/-- Settles O47: a word that changes is the one at `stk`. -/
theorem onlyTheStackWordChanges : Obligations.OnlyTheStackWordChanges :=
  fun _ _ h a ha => ((step_storesAtStk h).word_eq_or a).resolve_right fun hs => ha hs.1

/-- Settles O48: a word that changes is in a writable region. -/
theorem protectedWordsKept : Obligations.ProtectedWordsKept :=
  fun _ _ a h ha => ((step_storesAtStk h).word_eq_or a).resolve_right fun hs => ha hs.2

end Sys2Proof.Machine
end

section
/-!
Where the regions allow the access at `stk`: what a store and a load complete with, and a store followed by a load (20_memory.md R59).
-/

namespace Sys2Proof.Machine

variable {s t : State} {a v c : Word} {r q : Reg}

theorem memWrite_of_storable {go : State → Result} (h : s.Storable a.toNat) :
    memWrite a v s go = go (s.storeWord a.toNat v) := by
  obtain ⟨m, hm, hw⟩ := h
  simp [memWrite, hm, hw]

theorem memRead_of_loadable {go : Word → Result} (h : s.Loadable a.toNat) (hi : ¬ s.InInput a.toNat) :
    memRead a s go = go (s.word a.toNat) := by
  obtain ⟨m, hm, hr⟩ := h
  have hname : m.name ≠ .input := fun hn => hi ⟨m, hm, hn⟩
  simp [memRead, hm, hr, hname]

theorem exec_sta_of_storable (h : s.Storable s.stk.toNat) :
    exec .sta s = complete { s.storeWord s.stk.toNat s.acc with acc := 0 } := by
  rw [exec, execSta, memWrite_of_storable h]

theorem exec_psh_of_storable (h : s.Storable s.stk.toNat) :
    exec .psh s = complete { s.storeWord s.stk.toNat s.acc with acc := 0, stk := s.stk + 1 } := by
  rw [exec, execPsh, memWrite_of_storable h]
  rfl

theorem exec_str_of_storable (hc : regOfCode c = some q) (h : s.Storable s.stk.toNat) :
    exec (.str c) s = complete (s.storeWord s.stk.toNat (s.get q)) :=
  (checkRead_of_some hc).trans (memWrite_of_storable h)

theorem exec_lds_of_loadable (hc : regOfCode c = some r) (hr : r ≠ .lst) (h : s.Loadable s.stk.toNat)
    (hi : ¬ s.InInput s.stk.toNat) : exec (.lds c) s = complete (s.writeThrough r (s.word s.stk.toNat)) :=
  (checkWrite_of_some hc hr).trans (memRead_of_loadable h hi)

/-- A load after a store at the same `stk`: a state with the old regions and `stk` that holds the stored word there loads it. -/
theorem exec_lds_after_store (hc : regOfCode c = some r) (hr : r ≠ .lst) (h : s.Loadable s.stk.toNat)
    (hi : ¬ s.InInput s.stk.toNat) (hl : t.layout = s.layout) (hstk : t.stk = s.stk) (hw : t.word s.stk.toNat = v) :
    ∃ u, exec (.lds c) t = .next u ∧ u.outcome = .success ∧ u.get r = v := by
  have ht : t.Loadable t.stk.toNat := by simpa [State.Loadable, State.region_congr hl, hstk] using h
  have hti : ¬ t.InInput t.stk.toNat := by simpa [State.InInput, State.region_congr hl, hstk] using hi
  refine ⟨_, exec_lds_of_loadable hc hr ht hti, rfl, ?_⟩
  simp [State.get_writeThrough, hstk, hw]

/-- Settles O39: each store leaves its word at the old `stk`, which DEC gives back after PSH. -/
theorem storeThenLoad : Obligations.StoreThenLoad := by
  intro s rd b hb hne hs hl hi
  refine ⟨fun rs a ha => ?_, ?_, ?_⟩
  · obtain ⟨u, hu⟩ := exec_lds_after_store (t := (s.storeWord s.stk.toNat (s.get a)).succeeded) hb hne hl hi rfl rfl
      (State.word_storeWord_same s _ _)
    exact ⟨_, u, exec_str_of_storable ha hs, hu⟩
  · obtain ⟨u, hu⟩ := exec_lds_after_store (t := { s.storeWord s.stk.toNat s.acc with acc := 0 }.succeeded) hb hne hl hi
      rfl rfl (State.word_storeWord_same s _ _)
    exact ⟨_, u, exec_sta_of_storable hs, hu⟩
  · have hback : s.stk + 1 - 1 = s.stk := BitVec.add_sub_cancel ..
    obtain ⟨v, hv⟩ := exec_lds_after_store
      (t := { s.storeWord s.stk.toNat s.acc with acc := 0, stk := s.stk + 1 - 1, outcome := .success }) hb hne hl hi
      rfl hback (State.word_storeWord_same s _ _)
    exact ⟨_, _, v, exec_psh_of_storable hs, rfl, hback, hv⟩

end Sys2Proof.Machine
end

section
/-!
A step uses at most the word at `stk` (20_memory.md R55, R56): two runs from states that differ in their Word Stores only, operation
by operation.
-/

namespace Sys2Proof.Machine

/-- The state with another Word Store. -/
def State.withMem (s : State) (m : Memory) : State :=
  { s with mem := m }

/-- On every word on which `s` and `s` with the memory `m` agree, `t` and `t` with the memory `m'` agree. -/
def KeepsAgreement (s : State) (m : Memory) (t : State) (m' : Memory) : Prop :=
  ∀ a, (s.withMem m).word a = s.word a → (t.withMem m').word a = t.word a

/-- Where the first result is a next state the second is the same one, but for a memory that keeps the agreement of `s` and `m`. -/
def SameButMem (s : State) (m : Memory) (r r' : Result) : Prop :=
  ∀ t, r = .next t → ∃ m', r' = .next (t.withMem m') ∧ KeepsAgreement s m t m'

variable {s u : State} {m m' : Memory} {c : Word} {r r' : Result}

@[simp] theorem State.withMem_running : (s.withMem m).running = s.running := rfl
@[simp] theorem State.withMem_fl1 : (s.withMem m).fl1 = s.fl1 := rfl
@[simp] theorem State.withMem_program : (s.withMem m).program = s.program := rfl
@[simp] theorem State.withMem_fetch : fetch (s.withMem m) = fetch s := rfl
@[simp] theorem State.withMem_region (a : Nat) : (s.withMem m).region a = s.region a := rfl

@[simp] theorem State.get_withMem (q : Reg) : (s.withMem m).get q = s.get q := by
  cases q <;> rfl

theorem State.writeThrough_withMem (q : Reg) (x : Word) :
    (s.withMem m).writeThrough q x = (s.writeThrough q x).withMem m := by
  cases q <;> rfl

theorem KeepsAgreement.refl : KeepsAgreement s m s m := fun _ h => h

theorem KeepsAgreement.writeThrough (q : Reg) (x : Word) : KeepsAgreement s m (s.writeThrough q x) m := by
  cases q <;> exact .refl

/-- The same word stored in both memories keeps their agreement. -/
theorem KeepsAgreement.storeWord (a : Nat) (x : Word) :
    KeepsAgreement s m (s.storeWord a x) ((s.withMem m).storeWord a x).mem := by
  intro b h
  change ((s.withMem m).storeWord a x).word b = (s.storeWord a x).word b
  by_cases hb : b = a
  · rw [hb, State.word_storeWord_same, State.word_storeWord_same]
  · rw [State.word_storeWord_other _ _ hb, State.word_storeWord_other _ _ hb, h]

theorem SameButMem.next (h : KeepsAgreement s m u m') : SameButMem s m (.next u) (.next (u.withMem m')) := by
  rintro _ ⟨⟩
  exact ⟨m', rfl, h⟩

theorem SameButMem.complete (h : KeepsAgreement s m u m') : SameButMem s m (complete u) (complete (u.withMem m')) :=
  .next (u := u.succeeded) h

theorem SameButMem.stop (o : StepOutcome) : SameButMem s m (stop o s) (stop o (s.withMem m)) :=
  .next (u := s.stopped o) .refl

theorem SameButMem.ticked (h : SameButMem s m r r') : SameButMem s m (ticked r) (ticked r') := by
  intro t ht
  obtain ⟨u, hu, rfl⟩ := ticked_next.mp ht
  obtain ⟨m', hr', hm'⟩ := h u hu
  exact ⟨m', ticked_next.mpr ⟨_, hr', rfl⟩, hm'⟩

theorem SameButMem.checkRead {go go' : Reg → Result} (hgo : ∀ q, SameButMem s m (go q) (go' q)) :
    SameButMem s m (checkRead c s go) (checkRead c (s.withMem m) go') := by
  unfold Machine.checkRead
  cases readableReg c with
  | none => exact .stop _
  | some q => exact hgo q

theorem SameButMem.checkWrite {go go' : Reg → Result} (hgo : ∀ q, SameButMem s m (go q) (go' q)) :
    SameButMem s m (checkWrite c s go) (checkWrite c (s.withMem m) go') := by
  unfold Machine.checkWrite
  cases writableReg c with
  | none => exact .stop _
  | some q => exact hgo q

/-- A load gives both runs one word: the host's answer, or the word on which the memories agree. -/
theorem SameButMem.memRead {a : Word} {go go' : Word → Result}
    (h : s.InInput a.toNat ∨ (s.withMem m).word a.toNat = s.word a.toNat) (hgo : ∀ x, SameButMem s m (go x) (go' x)) :
    SameButMem s m (memRead a s go) (memRead a (s.withMem m) go') := by
  unfold Machine.memRead
  rw [State.withMem_region]
  cases hq : s.region a.toNat with
  | none => exact .stop _
  | some q =>
    dsimp only
    split
    · split
      · exact hgo _
      · rename_i hname
        have hword : (s.withMem m).word a.toNat = s.word a.toNat := h.resolve_left fun ⟨q', hq', hn⟩ =>
          hname (by simp_all)
        rw [hword]
        exact hgo _
    · exact .stop _

theorem SameButMem.memWrite {a x : Word} {go go' : State → Result}
    (hgo : SameButMem s m (go (s.storeWord a.toNat x)) (go' ((s.withMem m).storeWord a.toNat x))) :
    SameButMem s m (memWrite a x s go) (memWrite a x (s.withMem m) go') := by
  unfold Machine.memWrite
  rw [State.withMem_region]
  cases s.region a.toNat with
  | none => exact .stop _
  | some q =>
    dsimp only
    split
    · exact hgo
    · exact .stop _

theorem SameButMem.jumpIf (b : Bool) (a : Word) : SameButMem s m (jumpIf b a s) (jumpIf b a (s.withMem m)) := by
  cases b with
  | false => exact .complete .refl
  | true => exact .complete (u := s.jump a) .refl

theorem SameButMem.execRet : SameButMem s m (execRet s) (execRet (s.withMem m)) := by
  unfold Machine.execRet
  rw [State.withMem_fl1, State.withMem_program]
  split
  · exact .complete (u := s.jump s.fl1) .refl
  · exact .stop _

/-- The execute phase uses at most the word at `stk`. -/
theorem exec_withMem (i : Instr) (h : s.InInput s.stk.toNat ∨ (s.withMem m).word s.stk.toNat = s.word s.stk.toNat) :
    SameButMem s m (exec i s) (exec i (s.withMem m)) := by
  cases i with
  | zro c =>
    refine .checkRead fun _ => .checkWrite fun q => ?_
    rw [State.writeThrough_withMem]
    exact .complete (.writeThrough q _)
  | ldi x c =>
    refine .checkWrite fun q => ?_
    rw [State.writeThrough_withMem]
    exact .complete (.writeThrough q _)
  | mov c d =>
    refine .checkRead fun p => .checkWrite fun q => ?_
    rw [State.writeThrough_withMem, State.get_withMem]
    exact .complete (.writeThrough q _)
  | lds c =>
    refine .checkWrite fun q => .memRead h fun x => ?_
    rw [State.writeThrough_withMem]
    exact .complete (.writeThrough q _)
  | addr c | subr c | ceqr c | cner c | cgtr c | cltr c =>
    refine .checkRead fun q => ?_
    rw [State.get_withMem]
    exact .complete .refl
  | str c =>
    refine .checkRead fun q => ?_
    rw [State.get_withMem]
    refine .memWrite ?_
    exact .complete (.storeWord _ _)
  | sta =>
    simp only [exec, execSta]
    exact .memWrite (.complete (.storeWord _ s.acc))
  | psh =>
    simp only [exec, execPsh]
    exact .memWrite (.complete (.storeWord _ s.acc))
  | jez a | jnz a | jgz a | jlz a => exact .jumpIf _ a
  | ret => exact .execRet
  | _ => exact .complete .refl

theorem step_withMem (h : s.InInput s.stk.toNat ∨ (s.withMem m).word s.stk.toNat = s.word s.stk.toNat) :
    SameButMem s m (step s) (step (s.withMem m)) := by
  unfold step
  rw [State.withMem_running, State.withMem_fetch]
  split
  · cases fetch s with
    | ended => exact .ticked (.next (u := s.ended) .refl)
    | bad n => exact .ticked (.stop (s := s.advance n) _)
    | instr i => exact .ticked (exec_withMem (s := s.advance (instrWords i)) i h)
  · exact .next (u := s.idle) .refl

/-- Settles O49, by the two runs' agreement on every operation. -/
theorem stepUsesOneDataWord : Obligations.StepUsesOneDataWord :=
  fun _ t _ ht h => step_withMem h t ht

end Sys2Proof.Machine
end

section
/-!
The decoder on whole and on truncated encodings (30_encoding.md R81, R86, R90), and the step that a decode fault ends (40_cycle.md
R103, R104).
-/

namespace Sys2Proof.Machine

variable {i : Instr} {op : Word} {ws rest : List Word} {row : OpcodeRow} {n : Nat} {s : State}

/-- A list of words that begins with an instruction's encoding decodes to the instruction. -/
theorem decode_of_eq_encode_append (h : ws = encode i ++ rest) : decode ws = .ok (i, rest) := by
  subst h
  cases i <;> rfl

/-- Settles O1: each row's words are the encoding of its instruction, before the words that follow. -/
theorem opcodeMap : Obligations.OpcodeMap := by
  intro a b rest
  and_intros <;> exact decode_of_eq_encode_append rfl

theorem decode_of_opcodeRow (h : opcodeRow op.toNat = some row) : decode (op :: ws) = takeOperands row ws := by
  simp [decode, h]

/-- A legal opcode has a row, whose format has the words that the opcode map counts (30_encoding.md R86, R87). -/
theorem exists_opcodeRow_of_lt (h : n < 0x20) : ∃ row, opcodeRow n = some row ∧ opcodeWords n = operandCount row + 1 := by
  interval_cases n <;> exact ⟨_, rfl, rfl⟩

/-- Operand words that end early are reported with the number of words there were, the opcode word among them. -/
theorem takeOperands_of_length_lt (h : ws.length < operandCount row) :
    takeOperands row ws = .error (.truncated (ws.length + 1)) := by
  cases row with
  | bare i => simp [operandCount] at h
  | imm make | reg make | target make =>
    obtain rfl : ws = [] := by simpa [operandCount] using h
    rfl
  | immReg make | regReg make =>
    match ws, h with
    | [], _ => rfl
    | [w], _ => rfl
    | _ :: _ :: _, h => simp [operandCount] at h

theorem decode_of_truncated (hop : op.toNat < 0x20) (h : (op :: ws).length < opcodeWords op.toNat) :
    decode (op :: ws) = .error (.truncated (op :: ws).length) := by
  obtain ⟨row, hrow, hwords⟩ := exists_opcodeRow_of_lt hop
  rw [hwords, List.length_cons] at h
  rw [decode_of_opcodeRow hrow, takeOperands_of_length_lt (by omega), List.length_cons]

theorem State.length_window : s.window.length = s.program.length - s.pcc.toNat :=
  List.length_drop

/-- The first word a step fetches is the program's word at `pcc`. -/
theorem State.exists_window_eq_cons (h : s.program[s.pcc.toNat]? = some op) : ∃ ws, s.window = op :: ws := by
  obtain ⟨hlt, rfl⟩ := List.getElem?_eq_some_iff.mp h
  exact ⟨_, List.drop_eq_getElem_cons hlt⟩

theorem fetch_of_decode_truncated (h : decode s.window = .error (.truncated n)) : fetch s = .bad n := by
  simp [fetch, h]

/-- A decode fault after `n` words moves `pcc` past them, stops the machine and counts the step. -/
theorem step_of_fetch_bad (hr : s.running = true) (h : fetch s = .bad n) :
    step s = .next ((s.advance n).stopped .decodeFault).tick := by
  simp [step, hr, h, stop, ticked]

/-- Settles O4: the decoder reports the words that were left, and the fault is taken past them. -/
theorem truncatedInstructionStops : Obligations.TruncatedInstructionStops := by
  intro s op hr hget hop hshort
  obtain ⟨ws, hws⟩ := State.exists_window_eq_cons hget
  rw [← State.length_window] at hshort ⊢
  rw [hws] at hshort
  have hfetch : fetch s = .bad s.window.length :=
    fetch_of_decode_truncated (by rw [hws]; exact decode_of_truncated hop hshort)
  rw [step_of_fetch_bad hr hfetch]
  rfl

end Sys2Proof.Machine
end

section
/-!
What the fetches of a step find (40_cycle.md R101 to R104), said once: every value of `fetch` comes from one shape of the words left
from `pcc` on.
-/

namespace Sys2Proof.Machine

/-- The instructions a row of the opcode map makes have `op` as their opcode word, with the row's operand words after it. -/
def OpcodeRowEncodes (op : Word) : OpcodeRow → Prop
  | .bare i => encode i = [op]
  | .imm make | .reg make | .target make => ∀ a, encode (make a) = [op, a]
  | .immReg make | .regReg make => ∀ a b, encode (make a b) = [op, a, b]

/-- How many words the fetches took (40_cycle.md R109). -/
def wordsFetched : Fetched → Nat
  | .ended => 0
  | .bad n => n
  | .instr i => instrWords i

/-- What the fetches find, and the words they find it in. -/
inductive Finds (s : State) : Fetched → Prop
  | ended (hw : s.window = []) : Finds s .ended
  | illegal {op ws} (hw : s.window = op :: ws) (hrow : opcodeRow op.toNat = none) : Finds s (.bad 1)
  | truncated {op ws row} (hw : s.window = op :: ws) (hrow : opcodeRow op.toNat = some row)
      (hlt : ws.length < operandCount row) : Finds s (.bad (ws.length + 1))
  | instr {op args rest row i} (hw : s.window = op :: (args ++ rest)) (hrow : opcodeRow op.toNat = some row)
      (hlen : args.length = operandCount row) (hi : encode i = op :: args) : Finds s (.instr i)

variable {i : Instr} {op : Word} {ws args rest : List Word} {row : OpcodeRow} {n : Nat} {s : State}

theorem opcodeRow_eq_none (h : 0x20 ≤ n) : opcodeRow n = none := by
  unfold opcodeRow
  split <;> simp_all

theorem operandCount_le_two (row : OpcodeRow) : operandCount row ≤ 2 := by
  cases row <;> simp [operandCount]

theorem opcodeRowEncodes_of_opcodeRow (h : opcodeRow n = some row) : OpcodeRowEncodes (BitVec.ofNat 32 n) row := by
  unfold opcodeRow at h
  split at h <;> cases h <;> simp [OpcodeRowEncodes, encode]

/-- An opcode word of the map, with as many operand words as its format has, is the encoding of an instruction. -/
theorem exists_encode_eq (hrow : opcodeRow op.toNat = some row) (hlen : args.length = operandCount row) :
    ∃ i, encode i = op :: args := by
  have henc := opcodeRowEncodes_of_opcodeRow hrow
  rw [BitVec.ofNat_toNat, BitVec.setWidth_eq] at henc
  cases row with
  | bare i =>
    obtain rfl := List.length_eq_zero_iff.mp hlen
    exact ⟨i, henc⟩
  | imm make | reg make | target make =>
    obtain ⟨a, rfl⟩ := List.length_eq_one_iff.mp hlen
    exact ⟨make a, henc a⟩
  | immReg make | regReg make =>
    obtain ⟨a, b, rfl⟩ := List.length_eq_two.mp hlen
    exact ⟨make a b, henc a b⟩

theorem fetch_of_window_nil (hw : s.window = []) : fetch s = .ended := by
  simp [fetch, hw, decode]

theorem fetch_of_illegal (hw : s.window = op :: ws) (hrow : opcodeRow op.toNat = none) : fetch s = .bad 1 := by
  simp [fetch, hw, decode, hrow]

theorem fetch_of_short (hw : s.window = op :: ws) (hrow : opcodeRow op.toNat = some row) (hlt : ws.length < operandCount row) :
    fetch s = .bad (ws.length + 1) :=
  fetch_of_decode_truncated (by rw [hw, decode_of_opcodeRow hrow, takeOperands_of_length_lt hlt])

theorem fetch_of_decode_ok (h : decode s.window = .ok (i, rest)) : fetch s = .instr i := by
  simp [fetch, h]

/-- The fetches, by the words left: none, an illegal opcode word, too few operand words, or a whole encoding. -/
theorem finds_fetch (s : State) : Finds s (fetch s) := by
  cases hw : s.window with
  | nil => exact fetch_of_window_nil hw ▸ .ended hw
  | cons op ws =>
    cases hrow : opcodeRow op.toNat with
    | none => exact fetch_of_illegal hw hrow ▸ .illegal hw hrow
    | some row =>
      obtain hlt | hge := Nat.lt_or_ge ws.length (operandCount row)
      · exact fetch_of_short hw hrow hlt ▸ .truncated hw hrow hlt
      · have hlen := List.length_take_of_le hge
        obtain ⟨i, hi⟩ := exists_encode_eq hrow hlen
        have hw' : s.window = op :: (ws.take (operandCount row) ++ ws.drop (operandCount row)) := by
          rw [hw, List.take_append_drop]
        have hdecode := decode_of_eq_encode_append (hw'.trans (congrArg (· ++ ws.drop _) hi.symm))
        exact fetch_of_decode_ok hdecode ▸ .instr hw' hrow hlen hi

/-- A step that does not find the end fetches 1 to 3 words, all within the program. -/
theorem wordsFetched_bounds (h : fetch s ≠ .ended) :
    1 ≤ wordsFetched (fetch s) ∧ wordsFetched (fetch s) ≤ 3 ∧ s.pcc.toNat + wordsFetched (fetch s) ≤ s.program.length := by
  have hlen := State.length_window (s := s)
  have hfinds := finds_fetch s
  generalize fetch s = f at h hfinds
  cases hfinds with
  | ended => exact absurd rfl h
  | illegal hw _ =>
    simp only [hw, List.length_cons, wordsFetched] at hlen ⊢
    omega
  | @truncated _ _ row hw _ hlt =>
    have := operandCount_le_two row
    simp only [hw, List.length_cons, wordsFetched] at hlen ⊢
    omega
  | @instr _ _ _ row _ hw _ hargs hi =>
    have := operandCount_le_two row
    simp only [hw, List.length_cons, List.length_append, wordsFetched, instrWords, hi] at hlen ⊢
    omega

theorem fetch_of_illegal_opcode (hget : s.program[s.pcc.toNat]? = some op) (hop : 0x20 ≤ op.toNat) : fetch s = .bad 1 := by
  obtain ⟨ws, hw⟩ := State.exists_window_eq_cons hget
  exact fetch_of_illegal hw (opcodeRow_eq_none hop)

theorem fetch_of_truncated (hget : s.program[s.pcc.toNat]? = some op) (hop : op.toNat < 0x20)
    (hshort : s.program.length - s.pcc.toNat < opcodeWords op.toNat) : fetch s = .bad (s.program.length - s.pcc.toNat) := by
  obtain ⟨ws, hw⟩ := State.exists_window_eq_cons hget
  rw [← State.length_window, hw] at hshort ⊢
  exact fetch_of_decode_truncated (by rw [hw, decode_of_truncated hop hshort])

end Sys2Proof.Machine
end

section
/-!
The step by what its fetches find (40_cycle.md R101, R103, R105, R112). Every execute phase answers a next state and keeps the step
index.
-/

namespace Sys2Proof.Machine

/-- The result is a next state, neither a host fault nor a refusal. -/
def Answers (r : Result) : Prop :=
  ∃ t, r = .next t

variable {i : Instr} {s t u : State} {c : Word}

theorem Answers.checkRead {go : Reg → Result} (hgo : ∀ q, Answers (go q)) : Answers (checkRead c s go) := by
  unfold Machine.checkRead
  split
  · exact ⟨_, rfl⟩
  · exact hgo _

theorem Answers.checkWrite {go : Reg → Result} (hgo : ∀ q, Answers (go q)) : Answers (checkWrite c s go) := by
  unfold Machine.checkWrite
  split
  · exact ⟨_, rfl⟩
  · exact hgo _

theorem Answers.memRead {a : Word} {go : Word → Result} (hgo : ∀ x, Answers (go x)) : Answers (memRead a s go) := by
  unfold Machine.memRead
  split
  · exact ⟨_, rfl⟩
  · split
    · split <;> exact hgo _
    · exact ⟨_, rfl⟩

theorem Answers.memWrite {a x : Word} {go : State → Result} (hgo : ∀ u, Answers (go u)) : Answers (memWrite a x s go) := by
  unfold Machine.memWrite
  split
  · exact ⟨_, rfl⟩
  · split
    · exact hgo _
    · exact ⟨_, rfl⟩

theorem Answers.execRet : Answers (execRet s) := by
  unfold Machine.execRet
  split <;> exact ⟨_, rfl⟩

theorem exec_answers (i : Instr) (s : State) : Answers (exec i s) := by
  cases i with
  | zro c | mov c d => exact .checkRead fun _ => .checkWrite fun _ => ⟨_, rfl⟩
  | ldi x c => exact .checkWrite fun _ => ⟨_, rfl⟩
  | addr c | subr c | ceqr c | cner c | cgtr c | cltr c => exact .checkRead fun _ => ⟨_, rfl⟩
  | lds c => exact .checkWrite fun _ => .memRead fun _ => ⟨_, rfl⟩
  | str c => exact .checkRead fun _ => .memWrite fun _ => ⟨_, rfl⟩
  | sta | psh =>
    simp only [exec, execSta, execPsh]
    exact .memWrite fun _ => ⟨_, rfl⟩
  | ret => exact .execRet
  | _ => exact ⟨_, rfl⟩

theorem Effect.stepIndex_eq (he : Effect s i u) : u.stepIndex = s.stepIndex := by
  cases he with
  | jez | jnz | jgz | jlz => split <;> rfl
  | zro | ldi | mov | lds => exact State.writeThrough_stepIndex ..
  | _ => rfl

theorem exec_stepIndex (h : exec i s = .next t) : t.stepIndex = s.stepIndex := by
  obtain ⟨o, -, rfl⟩ | ⟨u, he, rfl⟩ := exec_executed h
  · rfl
  · exact he.stepIndex_eq

/-- An execute phase that ends with a fault changes nothing else (40_cycle.md R108). -/
theorem exec_fault (h : exec i s = .next t) (ho : t.outcome ≠ .success) : t = s.stopped t.outcome := by
  obtain ⟨o, -, rfl⟩ | ⟨u, -, rfl⟩ := exec_executed h
  · rfl
  · exact absurd rfl ho

theorem step_of_halted (hr : s.running = false) : step s = .next s.idle := by
  simp [step, hr]

theorem step_of_fetch_ended (hr : s.running = true) (h : fetch s = .ended) : step s = .next s.ended.tick := by
  simp [step, hr, h, ticked]

theorem step_of_fetch_instr (hr : s.running = true) (h : fetch s = .instr i) :
    step s = ticked (exec i (s.advance (instrWords i))) := by
  simp [step, hr, h]

/-- A faulting step stops past the words it fetched and changes nothing else. -/
theorem step_fault (hr : s.running = true) (h : step s = .next t) (ho : t.outcome ≠ .success) :
    fetch s ≠ .ended ∧ t = ((s.advance (wordsFetched (fetch s))).stopped t.outcome).tick := by
  obtain ⟨hr', -⟩ | ⟨-, ⟨-, rfl⟩ | ⟨n, hf, rfl⟩ | ⟨i, u, hf, hx, rfl⟩⟩ := step_next h
  · simp [hr] at hr'
  · exact absurd rfl ho
  · rw [hf]
    exact ⟨nofun, rfl⟩
  · rw [hf]
    exact ⟨nofun, congrArg State.tick (exec_fault hx ho)⟩

/-- Settles O7: the step of a halted machine is `idle`, which reports Success alone. -/
theorem haltedStepIsNoOp : Obligations.HaltedStepIsNoOp :=
  fun _ hr => step_of_halted hr

/-- Settles O5: no word is left at `pcc`, so the fetch finds the end. -/
theorem normalTermination : Obligations.NormalTermination :=
  fun _ hr hend => step_of_fetch_ended hr (fetch_of_window_nil (window_eq_nil.mpr hend))

/-- Settles O3: the opcode word has no row, so the decode fault is taken past that one word. -/
theorem illegalOpcodeStops : Obligations.IllegalOpcodeStops :=
  fun _ _ hr hget hop => step_of_fetch_bad hr (fetch_of_illegal_opcode hget hop)

/-- Settles O6: the execute phase always answers, and the step counts its answer. -/
theorem stepRunsInstruction : Obligations.StepRunsInstruction := by
  intro s i rest hr hdecode
  obtain ⟨t, ht⟩ := exec_answers i (s.advance (instrWords i))
  refine ⟨t, ht, ?_⟩
  rw [step_of_fetch_instr hr (fetch_of_decode_ok hdecode), ht]
  rfl

/-- Settles O11: only the tick writes the step index. -/
theorem stepIndexCounts : Obligations.StepIndexCounts := by
  intro s t h
  obtain ⟨hr, rfl⟩ | ⟨hr, ⟨-, rfl⟩ | ⟨n, -, rfl⟩ | ⟨i, u, -, hx, rfl⟩⟩ := step_next h
  · simp [hr]
  · simp [hr]
  · simp [hr]
  · simp [hr, exec_stepIndex hx]

/-- Settles O45: the step stops past the words fetched, and each clause says what `fetch` finds. -/
theorem faultingStepState : Obligations.FaultingStepState := by
  intro s t hr h ho
  obtain ⟨hne, ht⟩ := step_fault hr h ho
  obtain ⟨hpos, hle, hfit⟩ := wordsFetched_bounds hne
  refine ⟨wordsFetched (fetch s), hpos, hle, hfit, fun op hget hop => ?_, fun op hget hop hshort => ?_,
    fun i rest hdecode => ?_, ht⟩
  · rw [fetch_of_illegal_opcode hget hop, wordsFetched]
  · rw [fetch_of_truncated hget hop hshort, wordsFetched]
  · rw [fetch_of_decode_ok hdecode, wordsFetched, instrWords]

end Sys2Proof.Machine
end

section
/-!
The step fetched word by word (40_cycle.md R100, R102): `Fetch()` takes the window's first word, and as the program is shorter than
2^32 words `pcc` does not wrap, so that the next fetch takes the word after it (R111).
-/

namespace Sys2Proof.Machine

variable {w : Word} {ws args rest : List Word} {n : Nat} {s : State}

theorem State.advance_zero : s.advance 0 = s := by
  simp [State.advance]

theorem State.advance_one_advance : (s.advance 1).advance n = s.advance (n + 1) := by
  simp [State.advance, BitVec.ofNat_add, BitVec.add_assoc, BitVec.add_comm 1#32]

theorem cycleFetch_of_window_nil (hw : s.window = []) : cycleFetch s = none := by
  simpa [cycleFetch] using window_eq_nil.mp hw

theorem cycleFetch_of_window_cons (hw : s.window = w :: ws) : cycleFetch s = some (w, s.advance 1) := by
  have hget : s.program[s.pcc.toNat]? = some w := by
    rw [← List.head?_drop]
    exact congrArg List.head? hw
  simp [cycleFetch, hget, State.advance]

theorem State.window_advance_one (hl : s.program.length < 2 ^ 32) (hw : s.window = w :: ws) : (s.advance 1).window = ws := by
  have hlen := State.length_window (s := s)
  rw [hw, List.length_cons] at hlen
  have hpcc : (s.advance 1).pcc.toNat = s.pcc.toNat + 1 := by
    rw [State.advance_pcc, BitVec.toNat_add_of_lt] <;> simp; omega
  calc (s.advance 1).window = s.program.drop (s.pcc.toNat + 1) := by rw [State.window, hpcc, State.advance_program]
    _ = s.window.tail := List.tail_drop.symm
    _ = ws := by rw [hw, List.tail_cons]

/-- The operand loop takes the words that are there. -/
theorem cycleOperands_of_window_append (hl : s.program.length < 2 ^ 32) (hw : s.window = args ++ rest) :
    cycleOperands args.length s = (some args, s.advance args.length) := by
  induction args generalizing s with
  | nil => rw [List.length_nil, cycleOperands, State.advance_zero]
  | cons a args ih =>
    have hnext := ih (s := s.advance 1) hl (State.window_advance_one hl hw)
    simp [cycleOperands, cycleFetch_of_window_cons hw, hnext, State.advance_one_advance]

/-- Where the program ends first, the operand loop stops past its last word (40_cycle.md R104). -/
theorem cycleOperands_of_window_short (hl : s.program.length < 2 ^ 32) (hw : s.window = ws) (hlt : ws.length < n) :
    cycleOperands n s = (none, s.advance ws.length) := by
  induction ws generalizing s n with
  | nil =>
    obtain ⟨n, rfl⟩ := Nat.exists_eq_succ_of_ne_zero (Nat.ne_zero_of_lt hlt)
    simp [cycleOperands, cycleFetch_of_window_nil hw, State.advance_zero]
  | cons w ws ih =>
    obtain ⟨n, rfl⟩ := Nat.exists_eq_succ_of_ne_zero (Nat.ne_zero_of_lt hlt)
    have hnext := ih (s := s.advance 1) hl (State.window_advance_one hl hw) (Nat.lt_of_succ_lt_succ hlt)
    simp [cycleOperands, cycleFetch_of_window_cons hw, hnext, State.advance_one_advance]

/-- Settles O9, by what the fetches find: the fetches one by one leave the same `pcc` and give the same words. -/
theorem stepIsTheCycle : Obligations.StepIsTheCycle := by
  intro s hl
  cases hr : s.running with
  | false => simp [step_of_halted hr, cycleStep, hr, State.idle]
  | true =>
    have hfinds := finds_fetch s
    generalize hf : fetch s = f at hfinds
    cases hfinds with
    | ended hw =>
      simp [step_of_fetch_ended hr hf, cycleStep, hr, cycleFetch_of_window_nil hw, State.ended, State.tick]
    | illegal hw hrow =>
      simp [step_of_fetch_bad hr hf, cycleStep, hr, cycleFetch_of_window_cons hw, hrow, State.stopped, State.tick]
    | truncated hw hrow hlt =>
      have hloop := cycleOperands_of_window_short (s := s.advance 1) hl (State.window_advance_one hl hw) hlt
      rw [State.advance_one_advance] at hloop
      simp [step_of_fetch_bad hr hf, cycleStep, hr, cycleFetch_of_window_cons hw, hrow, hloop, State.stopped, State.tick]
    | @instr op args rest row i hw hrow hlen hi =>
      have hloop := cycleOperands_of_window_append (s := s.advance 1) hl (State.window_advance_one hl hw)
      rw [State.advance_one_advance, hlen] at hloop
      have hwords : instrWords i = operandCount row + 1 := by rw [instrWords, hi, List.length_cons, hlen]
      have htake : takeOperands row args = .ok (i, []) := by
        rw [← decode_of_opcodeRow hrow]
        exact decode_of_eq_encode_append (by rw [hi, List.append_nil])
      simp [step_of_fetch_instr hr hf, cycleStep, hr, cycleFetch_of_window_cons hw, hrow, hloop, htake, hwords]

end Sys2Proof.Machine
end

section
/-!
Data movement (41_data_movement.md R120 to R123): what an execute phase completes with that changes nothing or writes one register
through a code, and the order of the two register checks.
-/

namespace Sys2Proof.Machine

variable {s u : State} {c : Word} {r : Reg} {v : Word} {changed : List Reg} {stored : List Nat}

theorem Keeps.refl : Keeps changed stored s s :=
  ⟨fun _ _ => rfl, rfl, rfl, fun _ _ => rfl, rfl, rfl, rfl⟩

/-- Reporting Success is outside the frame: it sets the outcome port alone. -/
theorem Keeps.succeeded (h : Keeps changed stored s u) : Keeps changed stored s u.succeeded where
  regs q hq := (State.get_succeeded u q).trans (h.regs q hq)
  running := h.running
  finished := h.finished
  words := h.words
  program := h.program
  layout := h.layout
  stepIndex := h.stepIndex

/-- A write through a code changes the register it names and `lst` (10_state.md R33). -/
theorem Keeps.writeThrough : Keeps [r, .lst] stored s (s.writeThrough r v) where
  regs q hq := by
    have hne : ¬ (q = r ∨ q = .lst) := by simpa using hq
    rw [State.get_writeThrough, if_neg hne]
  running := State.writeThrough_running ..
  finished := State.writeThrough_finished ..
  words a _ := State.word_congr (State.writeThrough_mem ..) (State.writeThrough_program ..) (State.writeThrough_layout ..) a
  program := State.writeThrough_program ..
  layout := State.writeThrough_layout ..
  stepIndex := State.writeThrough_stepIndex ..

/-- An execute phase that completes with a write through a code leaves the word in the register and in `lst`. -/
theorem complete_writeThrough (s : State) (r : Reg) (v : Word) :
    ∃ t, complete (s.writeThrough r v) = .next t ∧ t.outcome = .success ∧ t.get r = v ∧ t.lst = v ∧ Keeps [r, .lst] [] s t := by
  refine ⟨_, rfl, rfl, ?_, rfl, Keeps.writeThrough.succeeded⟩
  rw [State.get_succeeded, State.get_writeThrough, if_pos (.inl rfl)]

/-- Where all that follows a read check stops as the check does, the phase stops so, whether or not the check passes. -/
theorem checkRead_of_forall_stop {go : Reg → Result} (h : ∀ q, go q = stop .invalidRegisterReference s) :
    checkRead c s go = stop .invalidRegisterReference s := by
  unfold checkRead
  split
  · rfl
  · exact h _

/-- Settles O18: the state NOP completes with is the one it began with. -/
theorem nopResult : Obligations.NopResult :=
  fun _ => ⟨rfl, _, rfl, rfl, Keeps.refl.succeeded⟩

/-- Settles O19: a code that passes the write check passes the read check; where the write check stops, so does ZRO. -/
theorem zroResult : Obligations.ZroResult := by
  intro rc s
  refine ⟨rfl, fun r hr hne => ?_, fun h => ?_⟩
  · have hexec : exec (.zro rc) s = complete (s.writeThrough r 0) :=
      (checkRead_of_some hr).trans (checkWrite_of_some hr hne)
    rw [hexec]
    exact complete_writeThrough s r 0
  · exact checkRead_of_forall_stop fun _ => checkWrite_of_none h

/-- Settles O20: the write check alone decides. -/
theorem ldiResult : Obligations.LdiResult := by
  intro imm rc s
  refine ⟨rfl, fun r hr hne => ?_, fun h => checkWrite_of_none h⟩
  have hexec : exec (.ldi imm rc) s = complete (s.writeThrough r imm) := checkWrite_of_some hr hne
  rw [hexec]
  exact complete_writeThrough s r imm

/-- Settles O21: both checks pass, or one of them stops MOV. -/
theorem movResult : Obligations.MovResult := by
  intro rs rd s
  refine ⟨rfl, fun a b ha hb hne => ?_, fun h => ?_⟩
  · have hexec : exec (.mov rs rd) s = complete (s.writeThrough b (s.get a)) :=
      (checkRead_of_some ha).trans (checkWrite_of_some hb hne)
    rw [hexec]
    exact complete_writeThrough s b (s.get a)
  · obtain hsrc | hdst := h
    · exact checkRead_of_none hsrc
    · exact checkRead_of_forall_stop fun _ => checkWrite_of_none hdst

end Sys2Proof.Machine
end

section
/-!
Accumulator arithmetic, swap and copy (42_accumulator.md R130 to R135): a write of a register by name in the frame, and the sum and
the difference an add or subtract leaves in `acc` and `lst`.
-/

namespace Sys2Proof.Machine

variable {s u : State} {r : Reg} {v : Word} {changed : List Reg} {stored : List Nat}

/-- A write by name (00_scope.md R9) of a register the frame lets change keeps the frame. -/
theorem Keeps.set (h : Keeps changed stored s u) (hr : r ∈ changed) : Keeps changed stored s (u.set r v) where
  regs q hq := by
    have hne : q ≠ r := fun e => hq (e ▸ hr)
    rw [State.get_set, if_neg hne, h.regs q hq]
  running := (State.set_running ..).trans h.running
  finished := (State.set_finished ..).trans h.finished
  words a ha := (State.word_congr (State.set_mem ..) (State.set_program ..) (State.set_layout ..) a).trans (h.words a ha)
  program := (State.set_program ..).trans h.program
  layout := (State.set_layout ..).trans h.layout
  stepIndex := (State.set_stepIndex ..).trans h.stepIndex

/-- `-w` is subtraction modulo 2^32 (42_accumulator.md R136). -/
theorem toNat_sub_eq_emod (a b : Word) : ((a - b).toNat : Int) = ((a.toNat : Int) - (b.toNat : Int)) % 2 ^ 32 := by
  have hb : b.toNat < 2 ^ 32 := b.isLt
  rw [BitVec.toNat_sub]
  omega

/-- The result of an add or subtract is what a write through the code of `acc` would leave (10_state.md R33). -/
theorem State.accumulate_eq_writeThrough (s : State) (v : Word) : s.accumulate v = s.writeThrough .acc v := rfl

theorem complete_accumulate (s : State) (v : Word) :
    ∃ t, complete (s.accumulate v) = .next t ∧ t.outcome = .success ∧ t.acc = v ∧ t.lst = t.acc ∧ Keeps [.acc, .lst] [] s t := by
  rw [State.accumulate_eq_writeThrough]
  obtain ⟨t, hnext, hout, hacc, hlst, hkeeps⟩ := complete_writeThrough s .acc v
  exact ⟨t, hnext, hout, hacc, hlst.trans hacc.symm, hkeeps⟩

theorem complete_accumulate_add (s : State) (w : Word) :
    ∃ t, complete (s.accumulate (s.acc + w)) = .next t ∧ t.outcome = .success ∧
      t.acc.toNat = (s.acc.toNat + w.toNat) % 2 ^ 32 ∧ t.lst = t.acc ∧ Keeps [.acc, .lst] [] s t := by
  obtain ⟨t, hnext, hout, hacc, hlst, hkeeps⟩ := complete_accumulate s (s.acc + w)
  exact ⟨t, hnext, hout, by rw [hacc, BitVec.toNat_add], hlst, hkeeps⟩

theorem complete_accumulate_sub (s : State) (w : Word) :
    ∃ t, complete (s.accumulate (s.acc - w)) = .next t ∧ t.outcome = .success ∧
      (t.acc.toNat : Int) = ((s.acc.toNat : Int) - (w.toNat : Int)) % 2 ^ 32 ∧ t.lst = t.acc ∧ Keeps [.acc, .lst] [] s t := by
  obtain ⟨t, hnext, hout, hacc, hlst, hkeeps⟩ := complete_accumulate s (s.acc - w)
  exact ⟨t, hnext, hout, by rw [hacc, toNat_sub_eq_emod], hlst, hkeeps⟩

/-- Settles O22: the immediate is the addend. -/
theorem addiResult : Obligations.AddiResult :=
  fun imm s => ⟨rfl, complete_accumulate_add s imm⟩

/-- Settles O23: the immediate is the subtrahend. -/
theorem subiResult : Obligations.SubiResult :=
  fun imm s => ⟨rfl, complete_accumulate_sub s imm⟩

/-- Settles O24: past the read check, the word of the register, as the instruction found it, is the addend. -/
theorem addrResult : Obligations.AddrResult := by
  intro rc s
  refine ⟨rfl, fun r hr => ?_, fun h => checkRead_of_none h⟩
  have hexec : exec (.addr rc) s = complete (s.accumulate (s.acc + s.get r)) := checkRead_of_some hr
  rw [hexec]
  exact complete_accumulate_add s (s.get r)

/-- Settles O25: past the read check, the word of the register, as the instruction found it, is the subtrahend. -/
theorem subrResult : Obligations.SubrResult := by
  intro rc s
  refine ⟨rfl, fun r hr => ?_, fun h => checkRead_of_none h⟩
  have hexec : exec (.subr rc) s = complete (s.accumulate (s.acc - s.get r)) := checkRead_of_some hr
  rw [hexec]
  exact complete_accumulate_sub s (s.get r)

/-- Settles O26: the exchange is two writes by name, of the words held before either. -/
theorem swpResult : Obligations.SwpResult := by
  intro s
  have hexec : exec .swp s = complete ((s.set .acc s.bak).set .bak s.acc) := rfl
  have hkeeps : Keeps [.acc, .bak] [] s ((s.set .acc s.bak).set .bak s.acc) := (Keeps.refl.set (by simp)).set (by simp)
  exact ⟨rfl, _, hexec, rfl, rfl, rfl, hkeeps.succeeded⟩

/-- Settles O27: the copy is one write by name. -/
theorem savResult : Obligations.SavResult := by
  intro s
  have hexec : exec .sav s = complete (s.set .bak s.acc) := rfl
  have hkeeps : Keeps [.bak] [] s (s.set .bak s.acc) := Keeps.refl.set (by simp)
  exact ⟨rfl, _, hexec, rfl, rfl, hkeeps.succeeded⟩

end Sys2Proof.Machine
end

section
/-!
The predicates on words in the spec's own terms (00_scope.md R8), and the jumps (43_jumps.md R150 to R155): a jump, taken or not,
completes with `pcc` alone changed.
-/

namespace Sys2Proof.Machine

variable {a b : Word}

theorem wordEq_iff : wordEq a b = true ↔ a.toNat = b.toNat := by
  rw [wordEq, decide_eq_true_iff, BitVec.toNat_inj]

theorem wordNe_iff : wordNe a b = true ↔ a.toNat ≠ b.toNat := by
  rw [wordNe, decide_eq_true_iff, BitVec.toNat_ne_iff_ne]

theorem wordGt_iff : wordGt a b = true ↔ signed b < signed a := by
  rw [wordGt, decide_eq_true_iff, signed_eq_toInt, signed_eq_toInt]

theorem wordLt_iff : wordLt a b = true ↔ signed a < signed b := by
  rw [wordLt, decide_eq_true_iff, signed_eq_toInt, signed_eq_toInt]

theorem signed_zero : signed 0 = 0 := rfl

/-- A jump is a write of `pcc` by name (00_scope.md R9). -/
theorem State.jump_eq_set (s : State) (tgt : Word) : s.jump tgt = s.set .pcc tgt := rfl

theorem complete_jump (s : State) (tgt : Word) :
    ∃ t, complete (s.jump tgt) = .next t ∧ t.outcome = .success ∧ t.pcc = tgt ∧ Keeps [.pcc] [] s t := by
  have hkeeps : Keeps [.pcc] [] s (s.jump tgt) := by
    rw [State.jump_eq_set]
    exact Keeps.refl.set (List.mem_singleton_self _)
  exact ⟨_, rfl, rfl, rfl, hkeeps.succeeded⟩

/-- A conditional jump whose test decides `p` is the jump where `p` holds, and leaves even `pcc` where it does not. -/
theorem jumpIf_completes {p : Prop} [Decidable p] {c : Bool} (hc : c = true ↔ p) (tgt : Word) (s : State) :
    ∃ t, jumpIf c tgt s = .next t ∧ t.outcome = .success ∧ t.pcc = (if p then tgt else s.pcc) ∧ Keeps [.pcc] [] s t := by
  by_cases hp : p
  · rw [if_pos hp, jumpIf, if_pos (hc.mpr hp)]
    exact complete_jump s tgt
  · rw [if_neg hp, jumpIf, if_neg (mt hc.mp hp)]
    exact ⟨_, rfl, rfl, rfl, Keeps.refl.succeeded⟩

/-- Settles O28: the execute phase is the jump. -/
theorem jmpResult : Obligations.JmpResult :=
  fun tgt s => ⟨rfl, complete_jump s tgt⟩

/-- Settles O29: each of the four tests compares `acc` with the word 0, which is 0 signed too. -/
theorem conditionalJumpResults : Obligations.ConditionalJumpResults := by
  intro tgt s
  refine ⟨⟨rfl, ?jez⟩, ⟨rfl, ?jnz⟩, ⟨rfl, ?jgz⟩, ⟨rfl, ?jlz⟩⟩
  case jez => exact jumpIf_completes (wordEq_iff (b := 0)) tgt s
  case jnz => exact jumpIf_completes (wordNe_iff (b := 0)) tgt s
  case jgz => exact jumpIf_completes (by rw [wordGt_iff, signed_zero]) tgt s
  case jlz => exact jumpIf_completes (by rw [wordLt_iff, signed_zero]) tgt s

/-- Settles O30, from the four results: the tests of JEZ and JNZ are complementary, those of JGZ and JLZ exclude each other. -/
theorem conditionalJumpLaws : Obligations.ConditionalJumpLaws := by
  intro tgt s
  obtain ⟨⟨-, e, hexecE, -, he, -⟩, ⟨-, n, hexecN, -, hn, -⟩, ⟨-, g, hexecG, -, hg, -⟩, ⟨-, l, hexecL, -, hl, -⟩⟩ :=
    conditionalJumpResults tgt s
  refine ⟨e, n, g, l, hexecE, hexecN, hexecG, hexecL, ?zeroOrNot, ?oneSign, fun hacc => ?noSign⟩
  case zeroOrNot =>
    by_cases hz : s.acc.toNat = 0
    · exact .inl ⟨he.trans (if_pos hz), hn.trans (if_neg (not_not.mpr hz))⟩
    · exact .inr ⟨he.trans (if_neg hz), hn.trans (if_pos hz)⟩
  case oneSign =>
    by_cases hpos : 0 < signed s.acc
    · exact .inr (hl.trans (if_neg hpos.not_gt))
    · exact .inl (hg.trans (if_neg hpos))
  case noSign =>
    have hzero : signed s.acc = 0 := by rw [hacc, signed_zero]
    exact ⟨hg.trans (if_neg hzero.not_gt), hl.trans (if_neg hzero.not_lt)⟩

end Sys2Proof.Machine
end

section
/-!
The compares (44_compare.md R160 to R168): each completes with the flag alone changed, and a register form is the immediate form on
the register's word.
-/

namespace Sys2Proof.Machine

variable {s : State} {r : Reg} {a b c : Word}

/-- The flag's word of a test that decides `p` (10_state.md R27). -/
theorem boolWord_eq_ite {p : Prop} [Decidable p] {t : Bool} (ht : t = true ↔ p) : boolWord t = if p then 1 else 0 :=
  if_congr ht rfl rfl

/-- A compare's result is a write of `fl0` by name (00_scope.md R9). -/
theorem State.setFlag_eq_set (s : State) (t : Bool) : s.setFlag t = s.set .fl0 (boolWord t) := rfl

/-- A compare whose test decides `p` leaves in `fl0` whether `p` holds. -/
theorem complete_setFlag {p : Prop} [Decidable p] {t : Bool} (ht : t = true ↔ p) (s : State) :
    ∃ u, complete (s.setFlag t) = .next u ∧ u.outcome = .success ∧ u.fl0 = (if p then 1 else 0) ∧ Keeps [.fl0] [] s u := by
  have hkeeps : Keeps [.fl0] [] s (s.setFlag t) := by
    rw [State.setFlag_eq_set]
    exact Keeps.refl.set (List.mem_singleton_self _)
  exact ⟨_, rfl, rfl, boolWord_eq_ite ht, hkeeps.succeeded⟩

/-- Past the read check a register form is the immediate form on the word of the register, as the instruction found it. -/
theorem exec_compareRegister_of_some (hr : regOfCode c = some r) :
    exec (.ceqr c) s = exec (.ceqi (s.get r)) s ∧ exec (.cner c) s = exec (.cnei (s.get r)) s ∧
      exec (.cgtr c) s = exec (.cgti (s.get r)) s ∧ exec (.cltr c) s = exec (.clti (s.get r)) s :=
  ⟨checkRead_of_some hr, checkRead_of_some hr, checkRead_of_some hr, checkRead_of_some hr⟩

/-- Words that are equal as integers are equal on all 32 bits (00_scope.md R8). -/
theorem signed_eq_signed_iff : signed a = signed b ↔ a.toNat = b.toNat := by
  rw [signed_eq_toInt, signed_eq_toInt, BitVec.toInt_inj, BitVec.toNat_inj]

/-- Settles O31: each of the four tests decides its predicate. -/
theorem compareImmediateResults : Obligations.CompareImmediateResults :=
  fun _ s => ⟨⟨rfl, complete_setFlag wordEq_iff s⟩, ⟨rfl, complete_setFlag wordNe_iff s⟩,
    ⟨rfl, complete_setFlag wordGt_iff s⟩, ⟨rfl, complete_setFlag wordLt_iff s⟩⟩

/-- Settles O32, from the immediate forms' results on the register's word; the read check decides whether there is one. -/
theorem compareRegisterResults : Obligations.CompareRegisterResults := by
  intro rc s
  refine ⟨⟨rfl, rfl, rfl, rfl⟩, fun r hr => ?readable, fun h => ?stops⟩
  case readable =>
    obtain ⟨heqr, hner, hgtr, hltr⟩ := exec_compareRegister_of_some (s := s) hr
    obtain ⟨⟨-, heqi⟩, ⟨-, hnei⟩, ⟨-, hgti⟩, ⟨-, hlti⟩⟩ := compareImmediateResults (s.get r) s
    rw [heqr, hner, hgtr, hltr]
    exact ⟨heqi, hnei, hgti, hlti⟩
  case stops => exact ⟨checkRead_of_none h, checkRead_of_none h, checkRead_of_none h, checkRead_of_none h⟩

/-- Settles O33, from the four results: the order of the integers is total, and a word is determined by its integer. -/
theorem compareLaws : Obligations.CompareLaws := by
  refine ⟨fun b s => ?_, fun _ _ _ hr => exec_compareRegister_of_some hr⟩
  obtain ⟨⟨-, e, hexecE, -, he, -⟩, ⟨-, n, hexecN, -, hn, -⟩, ⟨-, g, hexecG, -, hg, -⟩, ⟨-, l, hexecL, -, hl, -⟩⟩ :=
    compareImmediateResults b s
  refine ⟨e, n, g, l, hexecE, hexecN, hexecG, hexecL, ?complement, ?trichotomy⟩
  case complement =>
    rw [he, hn]
    by_cases heq : s.acc.toNat = b.toNat <;> simp [heq]
  case trichotomy =>
    rw [he, hg, hl]
    simp only [← signed_eq_signed_iff]
    obtain hlt | heq | hgt := lt_trichotomy (signed s.acc) (signed b)
    · simp [hlt, hlt.ne, hlt.not_gt]
    · simp [heq]
    · simp [hgt, hgt.ne', hgt.not_gt]

end Sys2Proof.Machine
end

section
/-!
The stack instructions (45_stack.md R180 to R185): what a store and a load at `stk` come to in each case of R56 and R57, the frame of
a store, and the results the rules name.
-/

namespace Sys2Proof.Machine

variable {s u : State} {a v c : Word} {n : Nat} {r q : Reg} {changed : List Reg} {stored : List Nat}

/-- No address outside every region may be loaded from. -/
theorem not_loadable_of_region_eq_none (h : s.region n = none) : ¬ s.Loadable n := by
  rw [loadable_iff, h]
  exact Bool.false_ne_true

/-- No address outside every region may be stored to. -/
theorem not_storable_of_region_eq_none (h : s.region n = none) : ¬ s.Storable n := by
  rw [storable_iff, h]
  exact Bool.false_ne_true

/-- The store fault of 20_memory.md R57. -/
theorem memWrite_of_not_storable {go : State → Result} (h : ¬ s.Storable a.toNat) :
    memWrite a v s go = stop .invalidStackAddress s := by
  unfold memWrite
  split
  case h_1 => rfl
  case h_2 m hm => exact if_neg fun hw => h ⟨m, hm, hw⟩

/-- The load fault of 20_memory.md R56. -/
theorem memRead_of_not_loadable {go : Word → Result} (h : ¬ s.Loadable a.toNat) :
    memRead a s go = stop .invalidStackAddress s := by
  unfold memRead
  split
  case h_1 => rfl
  case h_2 m hm => exact if_neg fun hr => h ⟨m, hm, hr⟩

/-- In the input-only region a load goes on with the host's INPUT of this step (20_memory.md R56). -/
theorem memRead_of_inInput {go : Word → Result} (h : s.Loadable a.toNat) (hi : s.InInput a.toNat) :
    memRead a s go = go (Config.input a.toNat s.stepIndex) := by
  obtain ⟨m, hm, hr⟩ := h
  obtain ⟨m', hm', hname⟩ := hi
  obtain rfl : m = m' := Option.some.inj (hm.symm.trans hm')
  simp [memRead, hm, hr, hname]

theorem exec_lds_of_inInput (hc : regOfCode c = some r) (hr : r ≠ .lst) (h : s.Loadable s.stk.toNat)
    (hi : s.InInput s.stk.toNat) :
    exec (.lds c) s = complete (s.writeThrough r (Config.input s.stk.toNat s.stepIndex)) :=
  (checkWrite_of_some hc hr).trans (memRead_of_inInput h hi)

/-- A store at an address the frame lets change keeps the frame (20_memory.md R57). -/
theorem Keeps.storeWord (h : Keeps changed stored s u) (hn : n ∈ stored) : Keeps changed stored s (u.storeWord n v) where
  regs q hq := (State.get_storeWord ..).trans (h.regs q hq)
  running := h.running
  finished := h.finished
  words b hb := by
    have hne : b ≠ n := fun e => hb (e ▸ hn)
    rw [State.word_storeWord_other u v hne, h.words b hb]
  program := h.program
  layout := h.layout
  stepIndex := h.stepIndex

/-- An execute phase that completes with one register written by name leaves the word there and the rest as it was. -/
theorem complete_set (s : State) (r : Reg) (v : Word) :
    ∃ t, complete (s.set r v) = .next t ∧ t.outcome = .success ∧ t.get r = v ∧ Keeps [r] [] s t := by
  refine ⟨_, rfl, rfl, ?_, (Keeps.refl.set (List.mem_singleton_self _)).succeeded⟩
  rw [State.get_succeeded, State.get_set, if_pos rfl]

/-- INC's result (45_stack.md R183). -/
theorem exec_inc_completes (s : State) :
    ∃ t, exec .inc s = .next t ∧ t.outcome = .success ∧ t.stk.toNat = (s.stk.toNat + 1) % 2 ^ 32 ∧ Keeps [.stk] [] s t := by
  obtain ⟨t, hnext, hout, hstk, hkeeps⟩ := complete_set s .stk (s.stk + 1)
  rw [State.get_stk] at hstk
  exact ⟨t, hnext, hout, by rw [hstk]; exact BitVec.toNat_add .., hkeeps⟩

/-- DEC's result (45_stack.md R184). -/
theorem exec_dec_completes (s : State) :
    ∃ t, exec .dec s = .next t ∧ t.outcome = .success ∧ (t.stk.toNat : Int) = ((s.stk.toNat : Int) - 1) % 2 ^ 32 ∧
      Keeps [.stk] [] s t := by
  obtain ⟨t, hnext, hout, hstk, hkeeps⟩ := complete_set s .stk (s.stk - 1)
  rw [State.get_stk] at hstk
  exact ⟨t, hnext, hout, by rw [hstk]; exact toNat_sub_eq_emod .., hkeeps⟩

/-- Settles O35: past the read check, STR is the store of the register's word; R181 puts the check first. -/
theorem strResult : Obligations.StrResult := by
  intro rc s
  refine ⟨rfl, fun h => checkRead_of_none h, fun q hq => ⟨fun hs => ?stores, fun hs => ?stops⟩⟩
  case stores =>
    have hkeeps : Keeps [] [s.stk.toNat] s (s.storeWord s.stk.toNat (s.get q)) :=
      Keeps.refl.storeWord (List.mem_singleton_self _)
    exact ⟨_, exec_str_of_storable hq hs, rfl, State.word_storeWord_same s _ _, hkeeps.succeeded⟩
  case stops => exact (checkRead_of_some hq).trans (memWrite_of_not_storable hs)

/-- Settles O36: past the write check, LDS is a write through the code of what the load answers, if it answers. -/
theorem ldsResult : Obligations.LdsResult := by
  intro rc s
  refine ⟨rfl, fun h => checkWrite_of_none h, fun r hr hne => ⟨fun hl hi => ?held, fun hl hi => ?input, fun hl => ?stops⟩⟩
  case held =>
    rw [exec_lds_of_loadable hr hne hl hi]
    exact complete_writeThrough s r _
  case input =>
    rw [exec_lds_of_inInput hr hne hl hi]
    exact complete_writeThrough s r _
  case stops => exact (checkWrite_of_some hr hne).trans (memRead_of_not_loadable hl)

/-- Settles O34: a store, and then a write of `acc` by name. -/
theorem staResult : Obligations.StaResult := by
  intro s
  refine ⟨rfl, fun hs => ?_, fun hs => by rw [exec, execSta, memWrite_of_not_storable hs, stop_eq]⟩
  have hkeeps : Keeps [.acc] [s.stk.toNat] s ((s.storeWord s.stk.toNat s.acc).set .acc 0) :=
    (Keeps.refl.storeWord (List.mem_singleton_self _)).set (List.mem_singleton_self _)
  exact ⟨_, exec_sta_of_storable hs, rfl, State.word_storeWord_same s _ _, rfl, hkeeps.succeeded⟩

/-- Settles O37: DEC from 0 wraps to the last address, which an admitted table leaves free (`regionOf_last`). -/
theorem incDecResults : Obligations.IncDecResults := by
  intro s
  refine ⟨⟨rfl, exec_inc_completes s⟩, ⟨rfl, exec_dec_completes s⟩, fun hzero => ?_⟩
  obtain ⟨t, hnext, -, hstk, hkeeps⟩ := exec_dec_completes s
  have hlast : t.stk.toNat = 0xFFFFFFFF := by omega
  refine ⟨t, hnext, hlast, fun hwf => ?_⟩
  have hnone : t.region t.stk.toNat = none := by
    rw [hlast, State.region_congr hkeeps.layout]
    exact regionOf_last hwf
  exact ⟨hnone, not_loadable_of_region_eq_none hnone, not_storable_of_region_eq_none hnone⟩

/-- Settles O38: STA's store and zeroing, and then a write of `stk` by name. -/
theorem pshResult : Obligations.PshResult := by
  intro s
  refine ⟨rfl, fun hs => ?_, fun hs => by rw [exec, execPsh, memWrite_of_not_storable hs, stop_eq]⟩
  have hkeeps : Keeps [.acc, .stk] [s.stk.toNat] s (((s.storeWord s.stk.toNat s.acc).set .acc 0).set .stk (s.stk + 1)) :=
    ((Keeps.refl.storeWord (by simp)).set (by simp)).set (by simp)
  exact ⟨_, exec_psh_of_storable hs, rfl, State.word_storeWord_same s _ _, rfl, BitVec.toNat_add .., hkeeps.succeeded⟩

end Sys2Proof.Machine
end

section
/-!
Call, return and halt (46_call_halt.md R200 to R204): a call is a write of `fl1` and of `pcc` by name, a return is a jump to `fl1`
where that is an index of the program, and a step at an instruction's words runs its execute phase.
-/

namespace Sys2Proof.Machine

variable {i : Instr} {s t : State} {v w : Word} {rest : List Word} {n : Nat}

/-- Settles O40: two writes by name, `fl1` before `pcc`. -/
theorem calResult : Obligations.CalResult := by
  intro tgt s
  have hexec : exec (.cal tgt) s = complete ((s.set .fl1 s.pcc).set .pcc tgt) := rfl
  have hkeeps : Keeps [.pcc, .fl1] [] s ((s.set .fl1 s.pcc).set .pcc tgt) := (Keeps.refl.set (by simp)).set (by simp)
  exact ⟨rfl, _, hexec, rfl, rfl, rfl, hkeeps.succeeded⟩

/-- Settles O41: inside the program RET is the jump to `fl1`; outside it is the fault. -/
theorem retResult : Obligations.RetResult := by
  intro s
  refine ⟨rfl, fun hin => ?returns, fun hout => ?stops⟩
  case returns =>
    have hexec : exec .ret s = complete (s.jump s.fl1) := if_pos hin
    rw [hexec]
    exact complete_jump s s.fl1
  case stops => exact if_neg (Nat.not_lt_of_le hout)

/-- Settles O42: HLT completes with the state's `halt`, which writes the status alone. -/
theorem hltResult : Obligations.HltResult := by
  intro s
  have hexec : exec .hlt s = .next s.halt.succeeded := rfl
  exact ⟨rfl, _, hexec, State.halt_running s, State.halt_finished s, State.succeeded_outcome _, rfl⟩

/-- Two program words at `pcc` are the first two words the step fetches. -/
theorem State.exists_window_eq_cons_cons (hv : s.program[s.pcc.toNat]? = some v)
    (hw : s.program[s.pcc.toNat + 1]? = some w) : ∃ ws, s.window = v :: w :: ws := by
  refine ⟨s.program.drop (s.pcc.toNat + 2), ?_⟩
  rw [State.window, List.drop_eq_getElem?_toList_append, hv, List.drop_eq_getElem?_toList_append, hw]
  rfl

/-- Fetches within the program do not wrap `pcc` (40_cycle.md R111). -/
theorem State.advance_pcc_toNat (h : s.pcc.toNat + n < 2 ^ 32) : (s.advance n).pcc.toNat = s.pcc.toNat + n := by
  rw [State.advance_pcc, BitVec.toNat_add, BitVec.toNat_ofNat]
  omega

/-- A step at an instruction's words counts the state its execute phase leaves (40_cycle.md R105, R110). -/
theorem step_of_window (hr : s.running = true) (hw : s.window = encode i ++ rest)
    (hx : exec i (s.advance (instrWords i)) = .next t) : step s = .next t.tick := by
  rw [step_of_fetch_instr hr (fetch_of_decode_ok (decode_of_eq_encode_append hw)), hx]
  rfl

/-- Settles O43, from the results of CAL and RET: the address CAL saves is the one past its two words, an index of the program, and
RET takes it. -/
theorem callThenReturn : Obligations.CallThenReturn := by
  intro s tgt hr hcal htgt hret hnext hsize
  obtain ⟨callRest, hcallWindow⟩ := State.exists_window_eq_cons_cons hcal htgt
  obtain ⟨-, t, hexecCal, -, hsaved, hjumped, hkeptCal⟩ := calResult tgt (s.advance 2)
  have hlink : t.fl1.toNat = s.pcc.toNat + 2 := by rw [hsaved, State.advance_pcc_toNat (by omega)]
  obtain ⟨retRest, hretWindow⟩ : ∃ ws, t.tick.window = 0x1E :: ws := by
    apply State.exists_window_eq_cons
    rw [State.tick_program, State.tick_pcc, hkeptCal.program, hjumped]
    exact hret
  obtain ⟨-, hreturns, -⟩ := retResult (t.tick.advance 1)
  have hinside : (t.tick.advance 1).fl1.toNat < (t.tick.advance 1).program.length := by
    simpa [hlink, hkeptCal.program] using hnext
  obtain ⟨u, hexecRet, hout, hreturned, hkeptRet⟩ := hreturns hinside
  have hrunning : t.tick.running = true := hkeptCal.running.trans hr
  refine ⟨t.tick, u.tick, step_of_window hr hcallWindow hexecCal, step_of_window hrunning hretWindow hexecRet, ?_, hout,
    hkeptRet.running.trans hrunning⟩
  rw [State.tick_pcc, hreturned]
  exact hlink

end Sys2Proof.Machine
end

section
/-!
Which fault an execute phase reports, and when (60_exceptions.md R221, R222, R226), and what the steps of a halted machine do (R223).
-/

namespace Sys2Proof.Machine

variable {i : Instr} {s t u : State} {o o' : StepOutcome}

/-- An instruction that completes passed the check of every code it uses. -/
theorem Effect.codesPermitted (he : Effect s i u) : i.codesPermitted = true := by
  cases he with
  | zro hw =>
    obtain ⟨hc, -⟩ := writableReg_eq_some.mp hw
    simp [Instr.codesPermitted, Instr.codesRead, Instr.codesWritten, hw, hc]
  | ldi hw | lds hw _ _ => simp [Instr.codesPermitted, Instr.codesRead, Instr.codesWritten, hw]
  | mov hw hq =>
    rw [readableReg_eq] at hq
    simp [Instr.codesPermitted, Instr.codesRead, Instr.codesWritten, hw, hq]
  | addr hq | subr hq | ceqr hq | cner hq | cgtr hq | cltr hq | str _ hq =>
    rw [readableReg_eq] at hq
    simp [Instr.codesPermitted, Instr.codesRead, Instr.codesWritten, hq]
  | _ => rfl

/-- Where an instruction has its effect, no fault has its cause. -/
theorem Effect.not_stops (he : Effect s i u) : ¬ Stops s i o := by
  intro hs
  cases hs with
  | code hp => simp [he.codesPermitted] at hp
  | sta hn | str _ hn | psh hn =>
    cases he
    exact hn ‹_›
  | lds _ hn =>
    cases he with
    | lds _ hm hr => exact hn ⟨_, hm, hr⟩
  | ret hn =>
    cases he with
    | ret hl => exact Nat.not_lt_of_le hn hl

theorem stops_invalidRegisterReference_iff : Stops s i .invalidRegisterReference ↔ i.codesPermitted = false :=
  ⟨fun | .code hp => hp, .code⟩

/-- The memory check comes after the register check (60_exceptions.md R226). -/
theorem stops_invalidStackAddress_iff :
    Stops s i .invalidStackAddress ↔ i.codesPermitted = true ∧
      (((i = .sta ∨ i = .psh ∨ ∃ rc, i = .str rc) ∧ ¬ s.Storable s.stk.toNat) ∨
        ((∃ rc, i = .lds rc) ∧ ¬ s.Loadable s.stk.toNat)) := by
  constructor
  · intro h
    cases h with
    | sta hn => exact ⟨rfl, .inl ⟨.inl rfl, hn⟩⟩
    | psh hn => exact ⟨rfl, .inl ⟨.inr (.inl rfl), hn⟩⟩
    | str hp hn => exact ⟨hp, .inl ⟨.inr (.inr ⟨_, rfl⟩), hn⟩⟩
    | lds hp hn => exact ⟨hp, .inr ⟨⟨_, rfl⟩, hn⟩⟩
  · rintro ⟨hp, ⟨rfl | rfl | ⟨c, rfl⟩, hn⟩ | ⟨⟨c, rfl⟩, hn⟩⟩
    · exact .sta hn
    · exact .psh hn
    · exact .str hp hn
    · exact .lds hp hn

theorem stops_failure_iff : Stops s i .failure ↔ i = .ret ∧ s.program.length ≤ s.fl1.toNat :=
  ⟨fun | .ret hn => ⟨rfl, hn⟩, fun ⟨hi, hn⟩ => hi ▸ .ret hn⟩

/-- One instruction has at most one cause to stop. -/
theorem Stops.unique (h : Stops s i o) (h' : Stops s i o') : o = o' := by
  cases h with
  | code hp =>
    cases h' with
    | code => rfl
    | str hp' | lds hp' => simp [hp] at hp'
    | sta | psh | ret => exact absurd hp (by decide)
  | str hp | lds hp =>
    cases h' with
    | code hp' => simp [hp] at hp'
    | _ => rfl
  | sta | psh | ret =>
    cases h' with
    | code hp' => exact absurd hp' (by decide)
    | _ => rfl

/-- A fault is reported exactly where it has its cause. -/
theorem exec_outcome_iff (h : exec i s = .next t) (ho : o ≠ .success) : t.outcome = o ↔ Stops s i o := by
  obtain ⟨o', hs, rfl⟩ | ⟨u, he, rfl⟩ := exec_executed h
  · exact ⟨fun heq => heq ▸ hs, fun hs' => hs.unique hs'⟩
  · exact ⟨fun heq => absurd heq.symm ho, fun hs => absurd hs he.not_stops⟩

/-- Settles O46: each fault is reported exactly where it has its cause, and a decode fault has none in an execute phase. -/
theorem faultCauses : Obligations.FaultCauses := by
  intro i s t h
  have hreported : ∀ o, o ≠ .success → (t.outcome = o ↔ Stops s i o) := fun _ => exec_outcome_iff h
  refine ⟨?_, ?_, ?_, fun hdecode => ?_⟩
  · exact (hreported .invalidRegisterReference nofun).trans stops_invalidRegisterReference_iff
  · exact (hreported .invalidStackAddress nofun).trans stops_invalidStackAddress_iff
  · exact (hreported .failure nofun).trans stops_failure_iff
  · exact nomatch (hreported .decodeFault nofun).mp hdecode

/-- Settles O44: `Stopped` is the state the fault operation leaves. -/
theorem faultChangesNothingElse : Obligations.FaultChangesNothingElse :=
  fun _ _ _ h ho => exec_fault h ho

/-- Settles O8, by induction on the steps: the first leaves the state but for the outcome, halted, and the rest keep that. -/
theorem haltedForever : Obligations.HaltedForever := by
  intro n
  induction n with
  | zero => exact fun s _ => ⟨s, rfl, rfl⟩
  | succ n ih =>
    intro s hr
    obtain ⟨t, hrun, ht⟩ := ih s.idle hr
    exact ⟨t, (run_succ_next core n s s.idle (step_of_halted hr)).trans hrun, ht⟩

end Sys2Proof.Machine
end

section
/-!
CREATE as the host sees it (60_exceptions.md R241): whatever machine it makes meets the invariant, and of a program too long it makes
none.
-/

namespace Sys2Proof.Machine

variable {l : Layout} {p : List Word} {s : State}

/-- The machines CREATE makes are those constructed of an admitted table and a program that fits. -/
theorem create_next (h : create l p = .next s) : l.wf = true ∧ p.length ≤ l.progCap ∧ s = State.constructed l p := by
  unfold create at h
  split at h
  · rename_i hl
    split at h
    · rename_i hp
      cases h
      exact ⟨hl, of_decide_eq_true hp, rfl⟩
    · cases h
  · cases h

/-- The constructed state lists no word, runs, and reports no fault. -/
theorem State.constructed_inv (hl : l.wf = true) (hp : p.length ≤ l.progCap) : (State.constructed l p).Inv where
  layout := hl
  fits := hp
  canonical := Memory.wf_nil
  confined := fun _ hc => absurd hc List.not_mem_nil
  status := fun ⟨_, hfinished⟩ => Bool.false_ne_true hfinished
  reported := fun hne => absurd rfl hne

/-- Settles O54: CREATE makes constructed states alone. -/
theorem invariantAtCreate : Obligations.InvariantAtCreate := by
  intro l p s h
  obtain ⟨hl, hp, rfl⟩ := create_next h
  exact State.constructed_inv hl hp

/-- Settles O57: the region table is admitted, and the program does not fit. -/
theorem createTooLong : Obligations.CreateTooLong := by
  intro l p hl hlong
  have hfits : ¬ l.fits p = true := fun h => absurd (of_decide_eq_true h) (Nat.not_le_of_lt hlong)
  rw [create, if_pos hl, if_neg hfits]

end Sys2Proof.Machine
end

section
/-!
READ_MEM (60_exceptions.md R243): the window's words one by one, up to the first address outside every region.
-/

namespace Sys2Proof.Machine

variable {s : State} {a base n : Nat} {w : Word} {ws : List Word}

theorem readMemWord_of_region_eq_none (h : s.region a = none) : readMemWord a s = .error .readMemOutOfBounds := by
  simp [readMemWord, h]

theorem readMemWord_of_region_ne_none (h : s.region a ≠ none) : ∃ w, readMemWord a s = .ok w := by
  obtain ⟨r, hr⟩ := Option.ne_none_iff_exists'.mp h
  by_cases hi : r.name = .input
  · exact ⟨Config.input a s.stepIndex, by simp [readMemWord, hr, hi]⟩
  · exact ⟨s.word a, by simp [readMemWord, hr, hi]⟩

/-- Away from the input-only region the word read is the word held, whatever the region's permissions. -/
theorem eq_word_of_readMemWord (h : readMemWord a s = .ok w) (hi : ¬ s.InInput a) : w = s.word a := by
  unfold readMemWord at h
  split at h
  · cases h
  · rename_i r hr
    rw [if_neg fun hname => hi ⟨r, hr, hname⟩] at h
    exact (Except.ok.inj h).symm

theorem readMem_succ_of_ok (h : readMemWord base s = .ok w) :
    readMem base (n + 1) s = (readMem (base + 1) n s).map (w :: ·) := by
  rw [readMem, h]

theorem readMem_succ_of_region_eq_none (h : s.region base = none) :
    readMem base (n + 1) s = .error .readMemOutOfBounds := by
  rw [readMem, readMemWord_of_region_eq_none h]

/-- A window inside the regions is read. -/
theorem readMem_of_inside (h : ∀ k, k < n → s.region (base + k) ≠ none) : ∃ ws, readMem base n s = .ok ws := by
  induction n generalizing base with
  | zero => exact ⟨[], rfl⟩
  | succ n ih =>
    obtain ⟨w, hw⟩ : ∃ w, readMemWord base s = .ok w := readMemWord_of_region_ne_none (h 0 (Nat.succ_pos n))
    obtain ⟨ws, hws⟩ : ∃ ws, readMem (base + 1) n s = .ok ws :=
      ih fun k hk => Nat.succ_add_eq_add_succ base k ▸ h (k + 1) (Nat.succ_lt_succ hk)
    exact ⟨w :: ws, by rw [readMem_succ_of_ok hw, hws]; rfl⟩

/-- A window that leaves the regions is refused, by the first address outside them. -/
theorem readMem_of_outside {k : Nat} (hk : k < n) (h : s.region (base + k) = none) :
    readMem base n s = .error .readMemOutOfBounds := by
  induction n generalizing base k with
  | zero => exact absurd hk (Nat.not_lt_zero k)
  | succ n ih =>
    by_cases hbase : s.region base = none
    · exact readMem_succ_of_region_eq_none hbase
    · obtain ⟨w, hw⟩ := readMemWord_of_region_ne_none hbase
      cases k with
      | zero => exact absurd h hbase
      | succ k =>
        have hrest : readMem (base + 1) n s = .error .readMemOutOfBounds :=
          ih (Nat.lt_of_succ_lt_succ hk) (Nat.succ_add_eq_add_succ base k ▸ h)
        rw [readMem_succ_of_ok hw, hrest]
        rfl

/-- The window read has as many words as were asked for, each the one read at its own address. -/
theorem getElem?_of_readMem (h : readMem base n s = .ok ws) :
    ws.length = n ∧ ∀ k w, ws[k]? = some w → readMemWord (base + k) s = .ok w := by
  induction n generalizing base ws with
  | zero =>
    cases h
    exact ⟨rfl, nofun⟩
  | succ n ih =>
    cases hw : readMemWord base s with
    | error r => simp [readMem, hw] at h
    | ok v =>
      rw [readMem_succ_of_ok hw] at h
      cases hrest : readMem (base + 1) n s with
      | error r => simp [hrest, Except.map] at h
      | ok vs =>
        rw [hrest] at h
        cases h
        obtain ⟨hlen, hread⟩ := ih hrest
        refine ⟨congrArg (· + 1) hlen, fun k w hk => ?_⟩
        cases k with
        | zero =>
          cases hk
          exact hw
        | succ k => exact Nat.succ_add_eq_add_succ base k ▸ hread k w hk

/-- Settles O59: a window inside the regions is read word by word, and any other is refused. -/
theorem readMemory : Obligations.ReadMemory := by
  intro s base n
  refine ⟨fun ws h => ?_, ⟨fun h => ?_, fun ⟨k, hk, hnone⟩ => readMem_of_outside hk hnone⟩, readMem_of_inside⟩
  · obtain ⟨hlen, hread⟩ := getElem?_of_readMem h
    exact ⟨hlen, fun k w hk hi => eq_word_of_readMemWord (hread k w hk) hi⟩
  · by_contra hinside
    push Not at hinside
    obtain ⟨ws, hok⟩ := readMem_of_inside hinside
    rw [h] at hok
    cases hok

end Sys2Proof.Machine
end

section
/-!
What the decoder reads is the encoding of what it answers (30_encoding.md sections 1 to 4): the operand words taken are the operands
of the instruction, and the row's opcode word stands before them.
-/

namespace Sys2Proof.Machine

variable {i : Instr} {op : Word} {ws rest : List Word} {row : OpcodeRow}

/-- The only list one operand is taken from has the operand at its head. -/
theorem takeOne_ok {make : Word → Instr} (h : takeOne make ws = .ok (i, rest)) : ∃ a, i = make a ∧ ws = a :: rest := by
  cases ws with
  | nil => cases h
  | cons a ws =>
    cases h
    exact ⟨a, rfl, rfl⟩

/-- The only list two operands are taken from begins with the two, in their order. -/
theorem takeTwo_ok {make : Word → Word → Instr} (h : takeTwo make ws = .ok (i, rest)) :
    ∃ a b, i = make a b ∧ ws = a :: b :: rest := by
  match ws with
  | [] | [_] => cases h
  | a :: b :: ws =>
    cases h
    exact ⟨a, b, rfl, rfl⟩

/-- An instruction made of a row's operand words is encoded as the row's opcode word and those words. -/
theorem OpcodeRowEncodes.cons_eq_encode_append (henc : OpcodeRowEncodes op row) (h : takeOperands row ws = .ok (i, rest)) :
    op :: ws = encode i ++ rest := by
  cases row with
  | bare j =>
    cases h
    exact congrArg (· ++ ws) henc.symm
  | imm make | reg make | target make =>
    obtain ⟨a, rfl, rfl⟩ := takeOne_ok h
    exact congrArg (· ++ rest) (henc a).symm
  | immReg make | regReg make =>
    obtain ⟨a, b, rfl, rfl⟩ := takeTwo_ok h
    exact congrArg (· ++ rest) (henc a b).symm

/-- The row of a whole opcode word makes instructions with that opcode word, no bit of it dropped (30_encoding.md R82). -/
theorem opcodeRowEncodes_of_opcodeRow_toNat (h : opcodeRow op.toNat = some row) : OpcodeRowEncodes op row := by
  simpa using opcodeRowEncodes_of_opcodeRow h

/-- Only a list that begins with an instruction's encoding decodes to the instruction. -/
theorem eq_encode_append_of_decode (h : decode ws = .ok (i, rest)) : ws = encode i ++ rest := by
  cases ws with
  | nil => cases h
  | cons op ws =>
    cases hrow : opcodeRow op.toNat with
    | none => simp [decode, hrow] at h
    | some row =>
      rw [decode_of_opcodeRow hrow] at h
      exact (opcodeRowEncodes_of_opcodeRow_toNat hrow).cons_eq_encode_append h

/-- Settles O2: the decoder inverts the encoder on every encoding, and decodes nothing else. -/
theorem decodeEncodeExactly : Obligations.DecodeEncodeExactly :=
  fun _ _ _ => ⟨eq_encode_append_of_decode, decode_of_eq_encode_append⟩

end Sys2Proof.Machine
end

section
/-!
Every step answers a next state (70_reset_and_hazards.md R273), and the state right after reset is the one CREATE constructs of the
reference layout and no program (70_reset_and_hazards.md R260).
-/

namespace Sys2Proof.Machine

theorem Answers.ticked {r : Result} (h : Answers r) : Answers (ticked r) := by
  obtain ⟨t, rfl⟩ := h
  exact ⟨t.tick, rfl⟩

/-- A step answers whether it is idle, ends the program, takes a decode fault or runs an instruction. -/
theorem step_answers (s : State) : Answers (step s) := by
  cases hr : s.running with
  | false => exact ⟨_, step_of_halted hr⟩
  | true =>
    cases hf : fetch s with
    | ended => exact ⟨_, step_of_fetch_ended hr hf⟩
    | bad n => exact ⟨_, step_of_fetch_bad hr hf⟩
    | instr i =>
      rw [step_of_fetch_instr hr hf]
      exact (exec_answers i _).ticked

/-- Settles O10: no case of a step and no arm of the execute phase faults or is refused. -/
theorem everyStepAnswers : Obligations.EveryStepAnswers :=
  ⟨step_answers, exec_answers⟩

/-- The reference layout is admitted, and the empty program fits it. -/
theorem create_reference_nil : create Layout.reference [] = .next State.reset :=
  create_of_fits referenceLayout.1 (Nat.zero_le _)

/-- Settles O53: CREATE makes the reset state, and every machine it makes meets the invariant. -/
theorem invariantAtReset : Obligations.InvariantAtReset :=
  invariantAtCreate _ _ _ create_reference_nil

/-- Settles O56: the fields are those of the state CREATE leaves; of no program, no word of the Word Store is a copy. -/
theorem resetValues : Obligations.ResetValues := by
  obtain ⟨t, ht, hget, hrunning, hfinished, -, -, hindex, -, hzero⟩ :=
    constructedState Layout.reference [] referenceLayout.1 (Nat.zero_le _)
  obtain rfl : State.reset = t := Host.Outcome.next.inj (create_reference_nil.symm.trans ht)
  exact ⟨ht, hget, hrunning, hfinished, hindex, fun a => hzero a fun _ k _ hk => absurd hk (Nat.not_lt_zero k)⟩

end Sys2Proof.Machine
end
